-- ==== Sys2Proof/Word.lean ====
section
/-! DEFINITION. The word types of the core (00_scope.md R8) and the 128-bit block as two lanes (R11, 10_state.md R17). -/

namespace Sys2Proof

/-- "A byte is 8 bits" (R8). -/
abbrev Byte := BitVec 8

/-- "A word is 32 bits" (R8). -/
abbrev Word := BitVec 32

/-- "A lane is 64 bits" (R8). -/
abbrev Lane := BitVec 64

/-- A 128-bit block held as two 64-bit lanes: `l0` holds block bytes 0-7 and `l1` holds block
bytes 8-15 (R17); read as a number it is `l1 : l0` (R11). -/
structure Block where
  l0 : Lane
  l1 : Lane
deriving DecidableEq, Repr

/-- The all-zero block. -/
def Block.zero : Block := ⟨0, 0⟩

/-- Bitwise XOR of two blocks, lane by lane: the field addition of R13. -/
def Block.xor (a b : Block) : Block := ⟨a.l0 ^^^ b.l0, a.l1 ^^^ b.l1⟩

end Sys2Proof
end

