-- ==== Sys2Proof/Config.lean ====
section
/-! DEFINITION. What one implementation fixes and the spec leaves OPEN (00_scope.md R7, 10_state.md R29):
the place of the register window and the latencies of the commands. Uninterpreted: no proof sees a value. -/

namespace Sys2Proof

/-- The number of the 0x100-byte page the register window sits in; OPEN (R7, D32; log 10). -/
opaque Config.basePage : Nat

/-- `BASE`, the platform address of the register window, "aligned to 0x100" (R31). -/
def Config.base : Nat := Config.basePage * 0x100

/-- Cycles of KEYSETUP beyond the first, by KLEN; OPEN (R7, D16; log 9). -/
opaque Config.keysetupExtraCycles : Nat → Nat

/-- Cycles of ENCRYPT beyond the first, by NR; OPEN (R7, D16; log 9). -/
opaque Config.encryptExtraCycles : Nat → Nat

/-- Cycles of DECRYPT beyond the first, by NR; OPEN (R7, D16; log 9). -/
opaque Config.decryptExtraCycles : Nat → Nat

/-- Cycles of a command other than KEYSETUP, ENCRYPT and DECRYPT beyond the first, by OP; OPEN (R7, D16; log 9). -/
opaque Config.primExtraCycles : Nat → Nat

/-- `LAT_KEYSETUP(klen)`: "each at least 1 cycle" (R7). -/
def Config.latKeysetup (klen : Nat) : Nat := 1 + Config.keysetupExtraCycles klen

/-- `LAT_ENCRYPT(nr)`, at least 1 cycle (R7). -/
def Config.latEncrypt (nr : Nat) : Nat := 1 + Config.encryptExtraCycles nr

/-- `LAT_DECRYPT(nr)`, at least 1 cycle (R7). -/
def Config.latDecrypt (nr : Nat) : Nat := 1 + Config.decryptExtraCycles nr

/-- `LAT_PRIM(op)`, at least 1 cycle (R7). -/
def Config.latPrim (op : Nat) : Nat := 1 + Config.primExtraCycles op

end Sys2Proof
end

