-- ==== Sys2Proof/Syntax.lean ====
section
/-! DEFINITION. The fourteen commands of the core, one constructor per row of spec/opcode_table.json
(30_encoding.md R51). A command is "the 'instruction' of this spec" (00_scope.md R14). -/

namespace Sys2Proof

/-- The commands (R51). `klen` is the key-length code of R52 and `ridx` the round-key index of R53,
both unsigned numbers whose ranges WellFormed.lean gives. -/
inductive Instr where
  | nop
  | keysetup (klen : Nat)
  | encrypt
  | decrypt
  | load
  | store
  | addrk (ridx : Nat)
  | subbytes
  | invsubbytes
  | shiftrows
  | invshiftrows
  | mixcolumns
  | invmixcolumns
  | xtime
deriving DecidableEq, Repr

/-- The opcode `OP` of a command (R51). -/
def Instr.op : Instr → Nat
  | .nop => 0x0
  | .keysetup _ => 0x1
  | .encrypt => 0x2
  | .decrypt => 0x3
  | .load => 0x4
  | .store => 0x5
  | .addrk _ => 0x6
  | .subbytes => 0x7
  | .invsubbytes => 0x8
  | .shiftrows => 0x9
  | .invshiftrows => 0xA
  | .mixcolumns => 0xB
  | .invmixcolumns => 0xC
  | .xtime => 0xD

end Sys2Proof
end

