-- ==== Sys2Proof/WellFormed.lean ====
section
/-! DEFINITION. Which terms of Instr are commands: the operand ranges of 30_encoding.md R52 and R53. -/

namespace Sys2Proof

/-- `KLEN` is "an unsigned 2-bit code" (R52): 0, 1, 2, or 3, the unrecognized key length, which is
a legal operand (R58). `RIDX` is "an unsigned 4-bit round-key index 0..15" (R53). -/
def Instr.wellFormed : Instr → Bool
  | .nop => true
  | .keysetup klen => decide (klen < 4)
  | .encrypt => true
  | .decrypt => true
  | .load => true
  | .store => true
  | .addrk ridx => decide (ridx < 16)
  | .subbytes => true
  | .invsubbytes => true
  | .shiftrows => true
  | .invshiftrows => true
  | .mixcolumns => true
  | .invmixcolumns => true
  | .xtime => true

/-- The instruction's operands fit their fields. -/
abbrev Instr.WellFormed (i : Instr) : Prop := i.wellFormed = true

end Sys2Proof
end

