-- ==== Sys2Proof/Decode.lean ====
section
/-! DEFINITION. Decoding a command word (30_encoding.md R50 to R58), total on every 32-bit word and
rejecting by name; after it the encoder, and the rows of spec/opcode_table.json. -/

namespace Sys2Proof

/-- Why a word is ILLEGAL (R54, R56). The hardware records ILLEGAL_CMD for every one of these;
the names say which condition of R55's decoder failed first. -/
inductive DecodeReject where
  /-- A bit of 7:4, 15:10 or 31:20 is set (R54). -/
  | reservedBits
  /-- `OP` is 0xE or 0xF (R51). -/
  | illegalOpcode
  /-- `KLEN` is nonzero and `OP` is not KEYSETUP's (R54). -/
  | unusedKlen
  /-- `RIDX` is nonzero and `OP` is not ADDRK's (R54). -/
  | unusedRidx
deriving DecidableEq, Repr

/-- The opcode map of R51: the command of an opcode, given both operand fields. -/
def decodeOp (op klen ridx : Nat) : Except DecodeReject Instr :=
  match op with
  | 0x0 => .ok .nop
  | 0x1 => .ok (.keysetup klen)
  | 0x2 => .ok .encrypt
  | 0x3 => .ok .decrypt
  | 0x4 => .ok .load
  | 0x5 => .ok .store
  | 0x6 => .ok (.addrk ridx)
  | 0x7 => .ok .subbytes
  | 0x8 => .ok .invsubbytes
  | 0x9 => .ok .shiftrows
  | 0xA => .ok .invshiftrows
  | 0xB => .ok .mixcolumns
  | 0xC => .ok .invmixcolumns
  | 0xD => .ok .xtime
  | _ => .error .illegalOpcode

/-- `OP` = `CTRL[3:0]` (R50). -/
def fieldOp (v : Word) : Nat := (v.extractLsb' 0 4).toNat

/-- `KLEN` = `CTRL[9:8]` (R52). -/
def fieldKlen (v : Word) : Nat := (v.extractLsb' 8 2).toNat

/-- `RIDX` = `CTRL[19:16]` (R53). -/
def fieldRidx (v : Word) : Nat := (v.extractLsb' 16 4).toNat

/-- Bits 7:4, 15:10 and 31:20 are all 0 (R54). -/
def reservedClear (v : Word) : Bool :=
  v.extractLsb' 4 4 == 0 && v.extractLsb' 10 6 == 0 && v.extractLsb' 20 12 == 0

/-- The decoder of R55. -/
def decode (v : Word) : Except DecodeReject Instr :=
  if reservedClear v = false then .error .reservedBits
  else if 0xE ≤ fieldOp v then .error .illegalOpcode
  else if fieldOp v ≠ 0x1 ∧ fieldKlen v ≠ 0 then .error .unusedKlen
  else if fieldOp v ≠ 0x6 ∧ fieldRidx v ≠ 0 then .error .unusedRidx
  else decodeOp (fieldOp v) (fieldKlen v) (fieldRidx v)

/-- The instruction the decoder reads from a table word: `CTRL` takes one 32-bit word (R50), so the
bits are the word as it is written to `CTRL`. -/
def decodeTableWord (nbits w : Nat) : Option Instr :=
  match decode (BitVec.ofNat 32 (w % 2 ^ nbits)) with
  | .ok i => some i
  | .error _ => none

/-- The `KLEN` field's value in the command's word: 0 unless the command is KEYSETUP (R54). -/
def Instr.klenField : Instr → Nat
  | .nop => 0
  | .keysetup klen => klen
  | .encrypt => 0
  | .decrypt => 0
  | .load => 0
  | .store => 0
  | .addrk _ => 0
  | .subbytes => 0
  | .invsubbytes => 0
  | .shiftrows => 0
  | .invshiftrows => 0
  | .mixcolumns => 0
  | .invmixcolumns => 0
  | .xtime => 0

/-- The `RIDX` field's value in the command's word: 0 unless the command is ADDRK (R54). -/
def Instr.ridxField : Instr → Nat
  | .nop => 0
  | .keysetup _ => 0
  | .encrypt => 0
  | .decrypt => 0
  | .load => 0
  | .store => 0
  | .addrk ridx => ridx
  | .subbytes => 0
  | .invsubbytes => 0
  | .shiftrows => 0
  | .invshiftrows => 0
  | .mixcolumns => 0
  | .invmixcolumns => 0
  | .xtime => 0

/-- The word of a command: the fields of R50 in their places, every reserved bit 0. -/
def encode (i : Instr) : Word :=
  BitVec.ofNat 32 i.op
    ||| BitVec.ofNat 32 i.klenField <<< 8
    ||| BitVec.ofNat 32 i.ridxField <<< 16

/-- A row of spec/opcode_table.json: a word is the row's command exactly when its bits under `mask`
are those of `value` (R55). -/
structure OpcodeRow where
  mnemonic : String
  value : Word
  mask : Word
deriving DecidableEq, Repr

/-- The row of a command in spec/opcode_table.json. -/
def Instr.row : Instr → OpcodeRow
  | .nop => ⟨"NOP", 0x00000000, 0xFFFFFFFF⟩
  | .keysetup _ => ⟨"KEYSETUP", 0x00000001, 0xFFFFFCFF⟩
  | .encrypt => ⟨"ENCRYPT", 0x00000002, 0xFFFFFFFF⟩
  | .decrypt => ⟨"DECRYPT", 0x00000003, 0xFFFFFFFF⟩
  | .load => ⟨"LOAD", 0x00000004, 0xFFFFFFFF⟩
  | .store => ⟨"STORE", 0x00000005, 0xFFFFFFFF⟩
  | .addrk _ => ⟨"ADDRK", 0x00000006, 0xFFF0FFFF⟩
  | .subbytes => ⟨"SUBBYTES", 0x00000007, 0xFFFFFFFF⟩
  | .invsubbytes => ⟨"INVSUBBYTES", 0x00000008, 0xFFFFFFFF⟩
  | .shiftrows => ⟨"SHIFTROWS", 0x00000009, 0xFFFFFFFF⟩
  | .invshiftrows => ⟨"INVSHIFTROWS", 0x0000000A, 0xFFFFFFFF⟩
  | .mixcolumns => ⟨"MIXCOLUMNS", 0x0000000B, 0xFFFFFFFF⟩
  | .invmixcolumns => ⟨"INVMIXCOLUMNS", 0x0000000C, 0xFFFFFFFF⟩
  | .xtime => ⟨"XTIME", 0x0000000D, 0xFFFFFFFF⟩

/-- The rows of spec/opcode_table.json, in its order. -/
def opcodeTable : List OpcodeRow :=
  [ Instr.nop, .keysetup 0, .encrypt, .decrypt, .load, .store, .addrk 0, .subbytes, .invsubbytes,
    .shiftrows, .invshiftrows, .mixcolumns, .invmixcolumns, .xtime ].map Instr.row

/-- `v` has the row's fixed bits: `(v & mask) = match` (R55). -/
def OpcodeRow.matchesWord (r : OpcodeRow) (v : Word) : Bool := v &&& r.mask == r.value

end Sys2Proof
end

