-- ==== Sys2Proof/Machine/State.lean ====
section
/-! DEFINITION. The machine's state as plain data (10_state.md R30), the bus port's transactions (R16),
the reasons a step can stop, and the state after reset (70_reset_and_hazards.md R117). -/

namespace Sys2Proof.Machine

/-- The errors a command can raise (60_exceptions.md R102). Code 0, NONE, is no constructor. -/
inductive ErrorCode where
  /-- "the `CTRL` word matches no command" -/
  | illegalCmd
  /-- "`KLEN` = 3, an 'unrecognized key length'" -/
  | badKeylen
  /-- "`KEY_VALID` = 0: no key setup has succeeded since reset" -/
  | noKey
  /-- "`RIDX` > `NR`" -/
  | badRidx
deriving DecidableEq, Repr

/-- The registers of the window (20_memory.md R32). -/
inductive Reg where
  | ctrl
  | status
  | key (j : Fin 8)
  | din (j : Fin 4)
  | dout (j : Fin 4)
deriving DecidableEq, Repr

/-- One bus access as the slave port carries it (10_state.md R16): a write flag, a byte offset within
the window, a byte-enable, and write data (which a read ignores). -/
structure Access where
  write : Bool
  offset : BitVec 8
  byteEnable : BitVec 4
  wdata : Word
deriving DecidableEq, Repr

/-- The port's response to an access (R16): read data, or that the write was done, or the error flag;
"a read returns 0" on a bus error (20_memory.md R34). -/
inductive BusResponse where
  | read (data : Word)
  | written
  | readError (data : Word)
  | writeError
deriving DecidableEq, Repr

/-- What the outside does next, in bus order (20_memory.md R41, R45; log 1).
`access`: a bus master presents this access. `coreTurn`: no new access is presented and the core may
move. `reset`: `rst` is asserted (70_reset_and_hazards.md R117, R118). -/
inductive Input where
  | access (a : Access)
  | coreTurn
  | reset
deriving DecidableEq, Repr

/-- The whole machine (R30), the bus port's held access (R16, R42), and the model's own two fields
`response` and `inputs`. Plain data. -/
structure State where
  /-- The state register `S` (R17). -/
  sReg : Block
  /-- The round-key file `RK[0..14]` (R18). -/
  rk : Vector Block 15
  /-- The round count `NR` (R19). -/
  nr : BitVec 4
  /-- `KEY_VALID` (R20). -/
  keyValid : Bool
  /-- `KEY0`..`KEY7` (R21). -/
  key : Vector Word 8
  /-- `DIN0`..`DIN3` (R22). -/
  din : Vector Word 4
  /-- `DOUT0`..`DOUT3` (R23). -/
  dout : Vector Word 4
  /-- `STATUS.ERR` (R25). -/
  err : Bool
  /-- `STATUS.ERRCODE` (R25). -/
  errcode : BitVec 4
  /-- The pending command's word (R24, R27): `BUSY` = 1 exactly while there is one (log 8). -/
  pending : Option Word
  /-- The access that the port holds (20_memory.md R42). -/
  request : Option Access
  /-- MODEL'S OWN: the response the port gave in the latest step, if any (log 3). -/
  response : Option BusResponse
  /-- MODEL'S OWN: what the outside does next (log 1). -/
  inputs : List Input
deriving DecidableEq, Repr

/-- Why the machine stops with a fault. -/
inductive Fault where
  /-- Raised by the port's answer to an illegal access (20_memory.md R34): an unmapped offset, an offset
  that is not a multiple of 4, or fewer than four byte enables. "A model treats a bus error as a
  fault". Carries the response; no state changed. SAFE: the hardware goes on (log 4). -/
  | busError (r : BusResponse)
deriving DecidableEq, Repr

/-- Why the model refuses an instruction. No meaning of this model refuses. -/
inductive Refusal where
  /-- Raised by an arm of `exec` for an instruction without a meaning; no arm does. SAFE. -/
  | notModelled (mnemonic : String)
deriving DecidableEq, Repr

/-- The outcome of a step of this machine. -/
abbrev Result := Host.Outcome State Fault Refusal

/-- The state after reset (R117): every register 0, no schedule, no error, no command pending, no access
held. Nothing has been answered and nothing is to come (log 1, log 3). -/
def State.reset : State where
  sReg := Block.zero
  rk := Vector.replicate 15 Block.zero
  nr := 0
  keyValid := false
  key := Vector.replicate 8 0
  din := Vector.replicate 4 0
  dout := Vector.replicate 4 0
  err := false
  errcode := 0
  pending := none
  request := none
  response := none
  inputs := []

end Sys2Proof.Machine
end

