-- ==== Sys2Proof/Machine/Flags.lean ====
section
/-! DEFINITION. The `STATUS` register (10_state.md R25) and the error codes it holds (60_exceptions.md R102). -/

namespace Sys2Proof.Machine

/-- The code of an error in `STATUS.ERRCODE` (R102). -/
def errorNumber : ErrorCode → BitVec 4
  | .illegalCmd => 1
  | .badKeylen => 2
  | .noKey => 3
  | .badRidx => 4

/-- `BUSY` is "1 while a command is in progress" (R25, R27; log 8). -/
def busy (s : State) : Bool := s.pending.isSome

/-- `STATUS = NR << 8 | ERRCODE << 4 | ERR << 2 | KEY_VALID << 1 | BUSY`; bits 3 and 31:12 read 0 (R25). -/
def statusWord (s : State) : Word :=
  (0 : BitVec 20) ++ s.nr ++ s.errcode ++ (0 : BitVec 1) ++ BitVec.ofBool s.err
    ++ BitVec.ofBool s.keyValid ++ BitVec.ofBool (busy s)

/-- "Only bit 2 of a write has an effect": whether a word written to `STATUS` clears the error (R25). -/
def clearsError (v : Word) : Bool := v.getLsbD 2

end Sys2Proof.Machine
end

