-- ==== Sys2Proof/Machine/Bytes.lean ====
section
/-! DEFINITION. Byte lanes (00_scope.md R9), little-endian pack and unpack (R10), and the state matrix (R12). -/

namespace Sys2Proof.Machine

/-- `byte(w, k)` of a 32-bit word: bits `8k+7:8k` (R9). -/
def wordByte (w : Word) (k : Nat) : Byte := w.extractLsb' (8 * k) 8

/-- `byte(x, k)` of a 64-bit lane (R9). -/
def laneByte (x : Lane) (k : Nat) : Byte := x.extractLsb' (8 * k) 8

/-- Pack four bytes little-endian: byte `k` is `f k` (R10). -/
def packWord (f : Nat → Byte) : Word := f 3 ++ f 2 ++ f 1 ++ f 0

/-- Pack eight bytes little-endian (R10). -/
def packLane (f : Nat → Byte) : Lane :=
  f 7 ++ f 6 ++ f 5 ++ f 4 ++ f 3 ++ f 2 ++ f 1 ++ f 0

/-- Block byte `k`, `byte(S, k)` with `S = S.L1 : S.L0` (R11). -/
def blockByte (b : Block) (k : Nat) : Byte :=
  if k < 8 then laneByte b.l0 k else laneByte b.l1 (k - 8)

/-- The block whose byte `k` is `f k`. -/
def packBlock (f : Nat → Byte) : Block := ⟨packLane f, packLane fun k => f (k + 8)⟩

/-- Apply a byte function to each of the 4 byte lanes of a word (R9). -/
def mapWordBytes (f : Byte → Byte) (w : Word) : Word := packWord fun k => f (wordByte w k)

/-- Apply a byte function to each of the 8 byte lanes of a lane (R9). -/
def mapLaneBytes (f : Byte → Byte) (x : Lane) : Lane := packLane fun k => f (laneByte x k)

/-- The state matrix, column-major: `s[r][c] = byte(S, r + 4c)` (R12). -/
def cell (b : Block) (r c : Nat) : Byte := blockByte b (r + 4 * c)

/-- The block whose matrix has `f r c` in row `r` and column `c` (R12). -/
def ofCells (f : Nat → Nat → Byte) : Block := packBlock fun k => f (k % 4) (k / 4)

end Sys2Proof.Machine
end

