-- ==== Sys2Proof/Machine/Operands.lean ====
section
/-! DEFINITION. The operands of the commands: the key length a `KLEN` code names (30_encoding.md R52), the
round key a `RIDX` names (R53), the key words, and the input and output block in their registers
(20_memory.md R37 to R39). -/

namespace Sys2Proof.Machine

/-- `(Nk, Nr)` of a key-length code (R52, 44_key_schedule.md R87); none for the unrecognized key length. -/
def keyParams (klen : Nat) : Option (Nat × Nat) :=
  match klen with
  | 0 => some (4, 10)
  | 1 => some (6, 12)
  | 2 => some (8, 14)
  | _ => none

/-- The master key's `Nk` words: "`KEYSETUP` reads `KEY0`..`KEY(Nk-1)`" (10_state.md R21, R38). -/
def keyWords (s : State) (nk : Nat) : List Word := s.key.toList.take nk

/-- Round key `i` of the round-key file. The file has entries 0 to 14 (R18); an index above 14, which
no checked command uses, reads as zero (log 7). -/
def roundKey (rk : Vector Block 15) (i : Nat) : Block := rk[i]?.getD Block.zero

/-- The input block in `DIN`: `L0 = DIN1 : DIN0`, `L1 = DIN3 : DIN2` (R39). -/
def dinBlock (din : Vector Word 4) : Block := ⟨din[1] ++ din[0], din[3] ++ din[2]⟩

/-- The register image of an output block: `DOUT0 = L0[31:0]`, `DOUT1 = L0[63:32]`,
`DOUT2 = L1[31:0]`, `DOUT3 = L1[63:32]` (R39). -/
def doutWords (b : Block) : Vector Word 4 :=
  #v[b.l0.extractLsb' 0 32, b.l0.extractLsb' 32 32, b.l1.extractLsb' 0 32, b.l1.extractLsb' 32 32]

end Sys2Proof.Machine
end

