-- ==== Sys2Proof/Machine/Ops.lean ====
section
/-! DEFINITION. The named operations over State: one update per piece of state, the error action and its
return, the prechecks, and the frame of a command's meaning. -/

namespace Sys2Proof.Machine

/-- Write the state register `S`. -/
def State.setSReg (s : State) (b : Block) : State := { s with sReg := b }

/-- Replace the schedule: the round-key file, its round count, and `KEY_VALID` <- 1
(44_key_schedule.md R94); the only update of `RK`, `NR` and `KEY_VALID`. -/
def State.setSchedule (s : State) (rk : Vector Block 15) (nr : BitVec 4) : State :=
  { s with rk := rk, nr := nr, keyValid := true }

/-- Write `KEYj`. -/
def State.setKey (s : State) (j : Fin 8) (v : Word) : State := { s with key := s.key.set j.val v j.isLt }

/-- Write `DINj`. -/
def State.setDin (s : State) (j : Fin 4) (v : Word) : State := { s with din := s.din.set j.val v j.isLt }

/-- Write the output block. -/
def State.setDout (s : State) (d : Vector Word 4) : State := { s with dout := d }

/-- Write `ERR` and `ERRCODE`. -/
def State.setErr (s : State) (e : Bool) (c : BitVec 4) : State := { s with err := e, errcode := c }

/-- Make a command word pending, or none (10_state.md R27). -/
def State.setPending (s : State) (p : Option Word) : State := { s with pending := p }

/-- Hold an access, or none (20_memory.md R42). -/
def State.setRequest (s : State) (r : Option Access) : State := { s with request := r }

/-- Put a response on the port, or none (10_state.md R16). -/
def State.setResponse (s : State) (r : Option BusResponse) : State := { s with response := r }

/-- What the outside does next. -/
def State.setInputs (s : State) (l : List Input) : State := { s with inputs := l }

/-- The error action `raise Err(code)` (60_exceptions.md R103): the first error is kept. This is the
core's only exception entry; it saves nothing and takes no vector (R109). The command that raised it
is discarded by whoever raised it: nothing else is written. -/
def raiseErr (c : ErrorCode) (s : State) : State :=
  if s.err then s else s.setErr true (errorNumber c)

/-- The return from an error (R106): a write of `v` to `STATUS` with bit 2 = 1 sets `ERR` <- 0 and
`ERRCODE` <- 0; any other write changes nothing. -/
def writeStatus (v : Word) (s : State) : State :=
  if clearsError v then s.setErr false 0 else s

/-- The checks of a decoded command in their order, checks 2 to 4 of R104; none when all pass. -/
def precheck (i : Instr) (s : State) : Option ErrorCode :=
  match i with
  | .nop => none
  | .keysetup klen => if (keyParams klen).isNone then some .badKeylen else none
  | .encrypt => if s.keyValid = false then some .noKey else none
  | .decrypt => if s.keyValid = false then some .noKey else none
  | .load => none
  | .store => none
  | .addrk ridx =>
    if s.keyValid = false then some .noKey
    else if s.nr.toNat < ridx then some .badRidx
    else none
  | .subbytes => none
  | .invsubbytes => none
  | .shiftrows => none
  | .invshiftrows => none
  | .mixcolumns => none
  | .invmixcolumns => none
  | .xtime => none

/-- A command's meaning: its checks, and if none fails its effect, written at one instant
(20_memory.md R43). A command that fails a check changes nothing but `ERR` and `ERRCODE` (R101). The
checks ran at issue already; a pending command passes them again, since nothing they read can have
changed (log 5). -/
def runChecked (i : Instr) (effect : State → State) (s : State) : Result :=
  match precheck i s with
  | some e => .next (raiseErr e s)
  | none => .next (effect s)

/-- The completion of the pending command: `BUSY` <- 0, no pending command (R116). -/
def retire (r : Result) : Result :=
  match r with
  | .next t => .next (t.setPending none)
  | .fault f => .fault f
  | .refused q => .refused q

/-- How many cycles a command that passes its checks keeps `BUSY` = 1 (70_reset_and_hazards.md R126);
the model has no time and no step reads it (log 9). -/
def busyCycles (i : Instr) (nr : Nat) : Nat :=
  match i with
  | .nop => Config.latPrim 0x0
  | .keysetup klen => Config.latKeysetup klen
  | .encrypt => Config.latEncrypt nr
  | .decrypt => Config.latDecrypt nr
  | .load => Config.latPrim 0x4
  | .store => Config.latPrim 0x5
  | .addrk _ => Config.latPrim 0x6
  | .subbytes => Config.latPrim 0x7
  | .invsubbytes => Config.latPrim 0x8
  | .shiftrows => Config.latPrim 0x9
  | .invshiftrows => Config.latPrim 0xA
  | .mixcolumns => Config.latPrim 0xB
  | .invmixcolumns => Config.latPrim 0xC
  | .xtime => Config.latPrim 0xD

end Sys2Proof.Machine
end

