-- ==== Sys2Proof/Machine/Bus.lean ====
section
/-! DEFINITION. The register window and the host's side of the step relation (20_memory.md; 60_exceptions.md
R116): which register an offset names, reading and writing it, issuing a command, the hold, and which
move the next step makes. -/

namespace Sys2Proof.Machine

/-- The register at an offset of the window; none at an unmapped or misaligned offset (R32, R34). -/
def regAt (offset : BitVec 8) : Option Reg :=
  if offset.toNat % 4 ≠ 0 then none
  else if offset.toNat = 0x00 then some .ctrl
  else if offset.toNat = 0x04 then some .status
  else if h : 0x10 ≤ offset.toNat ∧ offset.toNat < 0x30 then
    some (.key ⟨(offset.toNat - 0x10) / 4, by omega⟩)
  else if h : 0x30 ≤ offset.toNat ∧ offset.toNat < 0x40 then
    some (.din ⟨(offset.toNat - 0x30) / 4, by omega⟩)
  else if h : 0x40 ≤ offset.toNat ∧ offset.toNat < 0x50 then
    some (.dout ⟨(offset.toNat - 0x40) / 4, by omega⟩)
  else none

/-- The register a legal access names: all four byte enables set, at a mapped offset that is a
multiple of 4 (R34); none for an illegal access. -/
def accessReg (a : Access) : Option Reg := if a.byteEnable = 0xF then regAt a.offset else none

/-- The access that reaches the port when a master addresses the platform address `addr`: the window is
the 0x100 bytes at `BASE` (R31); none when the address is not in the window (log 10). -/
def windowAccess (addr : Nat) (write : Bool) (byteEnable : BitVec 4) (wdata : Word) : Option Access :=
  if Config.base ≤ addr ∧ addr < Config.base + 0x100 then
    some ⟨write, BitVec.ofNat 8 (addr - Config.base), byteEnable, wdata⟩
  else none

/-- What a read returns (R32). -/
def readReg (r : Reg) (s : State) : Word :=
  match r with
  | .ctrl => 0
  | .status => statusWord s
  | .key _ => 0
  | .din j => s.din[j]
  | .dout j => s.dout[j]

/-- A write of `v` to `CTRL` with no command in progress (30_encoding.md R55, R104): an illegal word and a
command that fails a check raise their error; any other command becomes pending. -/
def issue (v : Word) (s : State) : State :=
  match decode v with
  | .error _ => raiseErr .illegalCmd s
  | .ok i =>
    match precheck i s with
    | some e => raiseErr e s
    | none => s.setPending (some v)

/-- What a write does (R32, R36). -/
def writeReg (r : Reg) (v : Word) (s : State) : State :=
  match r with
  | .ctrl => issue v s
  | .status => writeStatus v s
  | .key j => s.setKey j v
  | .din j => s.setDin j v
  | .dout _ => s

/-- The response to an illegal access: the error flag, and a read returns 0 (R34). -/
def errorResponse (a : Access) : BusResponse := if a.write then .writeError else .readError 0

/-- Perform one access (R34 to R36): a bus error is a fault (R107; log 4). -/
def performAccess (a : Access) (s : State) : Result :=
  match accessReg a with
  | none => .fault (.busError (errorResponse a))
  | some r =>
    if a.write then .next ((writeReg r a.wdata s).setResponse (some .written))
    else .next (s.setResponse (some (.read (readReg r s))))

/-- Whether an access presented now is held: while `BUSY` = 1, every access but a legal access to
`STATUS` (R42, R116). -/
def isHeld (s : State) (a : Access) : Bool := busy s && accessReg a != some .status

/-- `rst` asserted: the state of R117. A pending command is abandoned, a held access is dropped (R118),
and what the outside does after is not the core's to change. -/
def assertReset (rest : List Input) : State := State.reset.setInputs rest

/-- The next move of the machine, with the state it starts from: its input taken, no response yet. -/
inductive Move where
  /-- `rst` is asserted; `rest` comes after. -/
  | reset (rest : List Input)
  /-- The core step of R116. -/
  | core (s : State)
  /-- The host step of R116: this access is performed. -/
  | perform (a : Access) (s : State)
  /-- The presented access is now held, or nothing is enabled: no register changes. -/
  | wait (s : State)
deriving DecidableEq, Repr

/-- The move with no new access presented: the core's if a command is pending, else the held access'. -/
def moveWithoutAccess (s : State) : Move :=
  match s.pending, s.request with
  | some _, _ => .core s
  | none, some a => .perform a (s.setRequest none)
  | none, none => .wait s

/-- Which agent moves (R116; log 2). Reset comes first. The core moves when it has the turn, when nothing
more is to come, and when an access is held that only its completion can lift ("lifted by a core
step"). An access that the port already holds comes before any later one (R41). -/
def nextMove (s : State) : Move :=
  match s.inputs with
  | .reset :: rest => .reset rest
  | .coreTurn :: rest => moveWithoutAccess ((s.setInputs rest).setResponse none)
  | [] => moveWithoutAccess (s.setResponse none)
  | .access b :: rest =>
    match s.request with
    | some a =>
      if isHeld s a then .core (s.setResponse none)
      else .perform a ((s.setRequest none).setResponse none)
    | none =>
      if isHeld s b then .wait (((s.setRequest (some b)).setInputs rest).setResponse none)
      else .perform b ((s.setInputs rest).setResponse none)

end Sys2Proof.Machine
end

