-- ==== Sys2Proof/Machine/GfArith.lean ====
section
/-! DEFINITION. GF(2^8) doubling and multiplication, and XTIME (40_gf_arith.md). -/

namespace Sys2Proof.Machine

/-- Byte doubling `((a << 1) & 0xFF) ^ (a[7] = 1 ? 0x1B : 0x00)` (R61). -/
def xtime (a : Byte) : Byte := (a <<< 1) ^^^ (if a.getLsbD 7 then 0x1B else 0x00)

/-- Lane-parallel doubling `xtime_4` of a 32-bit word, by the masking sequence of R62. -/
def xtime4 (x : Word) : Word :=
  let hb := x &&& 0x80808080
  let b := (hb - (hb >>> 7)) &&& 0x1B1B1B1B
  ((x ^^^ hb) <<< 1) ^^^ b

/-- Lane-parallel doubling `xtime_8` of a 64-bit lane, by the masking sequence of R62. -/
def xtime8 (x : Lane) : Lane :=
  let hb := x &&& 0x8080808080808080
  let b := (hb - (hb >>> 7)) &&& 0x1B1B1B1B1B1B1B1B
  ((x ^^^ hb) <<< 1) ^^^ b

/-- The loop of R64 over the bits `b[i..7]`, `n` of them left: `r` gathers `t = {02}^i • a` where
`b[i] = 1`. -/
def gmulLoop (b : Byte) : Nat → Nat → Byte → Byte → Byte
  | 0, _, _, r => r
  | n + 1, i, t, r => gmulLoop b n (i + 1) (xtime t) (if b.getLsbD i then r ^^^ t else r)

/-- Field multiplication `a • b` (R64). -/
def gmul (a b : Byte) : Byte := gmulLoop b 8 0 a 0

/-- `{02}•a` (R64). -/
def mul02 (a : Byte) : Byte := xtime a

/-- `{03}•a = x2 ^ a` (R64). -/
def mul03 (a : Byte) : Byte := xtime a ^^^ a

/-- `{09}•a = x8 ^ a` (R64). -/
def mul09 (a : Byte) : Byte := xtime (xtime (xtime a)) ^^^ a

/-- `{0B}•a = x8 ^ x2 ^ a` (R64). -/
def mul0B (a : Byte) : Byte := xtime (xtime (xtime a)) ^^^ xtime a ^^^ a

/-- `{0D}•a = x8 ^ x4 ^ a` (R64). -/
def mul0D (a : Byte) : Byte := xtime (xtime (xtime a)) ^^^ xtime (xtime a) ^^^ a

/-- `{0E}•a = x8 ^ x4 ^ x2` (R64). -/
def mul0E (a : Byte) : Byte := xtime (xtime (xtime a)) ^^^ xtime (xtime a) ^^^ xtime a

/-- The effect of XTIME at completion. -/
def xtimeEffect (s : State) : State := s.setSReg ⟨xtime8 s.sReg.l0, xtime8 s.sReg.l1⟩

/-- XTIME doubles every byte of `S`, lane by lane (R66). -/
def execXtime (s : State) : Result := runChecked .xtime xtimeEffect s

end Sys2Proof.Machine
end

