-- ==== Sys2Proof/Machine/Geometry.lean ====
section
/-! DEFINITION. ShiftRows, MixColumns, their inverses, and their four commands (42_geometry.md; log 11). -/

namespace Sys2Proof.Machine

/-- ShiftRows: `s'[r][c] = s[r][(c + r) mod 4]` (R73). -/
def shiftRows (b : Block) : Block := ofCells fun r c => cell b r ((c + r) % 4)

/-- InvShiftRows: `s'[r][c] = s[r][(c - r) mod 4]` (R74). -/
def invShiftRows (b : Block) : Block := ofCells fun r c => cell b r ((c + 4 - r) % 4)

/-- Row `r` of the product of a column `a0 a1 a2 a3` with the matrix of R75. -/
def mixRow (r : Nat) (a0 a1 a2 a3 : Byte) : Byte :=
  match r with
  | 0 => mul02 a0 ^^^ mul03 a1 ^^^ a2 ^^^ a3
  | 1 => a0 ^^^ mul02 a1 ^^^ mul03 a2 ^^^ a3
  | 2 => a0 ^^^ a1 ^^^ mul02 a2 ^^^ mul03 a3
  | _ => mul03 a0 ^^^ a1 ^^^ a2 ^^^ mul02 a3

/-- Row `r` of the product of a column `a0 a1 a2 a3` with the matrix of R76. -/
def invMixRow (r : Nat) (a0 a1 a2 a3 : Byte) : Byte :=
  match r with
  | 0 => mul0E a0 ^^^ mul0B a1 ^^^ mul0D a2 ^^^ mul09 a3
  | 1 => mul09 a0 ^^^ mul0E a1 ^^^ mul0B a2 ^^^ mul0D a3
  | 2 => mul0D a0 ^^^ mul09 a1 ^^^ mul0E a2 ^^^ mul0B a3
  | _ => mul0B a0 ^^^ mul0D a1 ^^^ mul09 a2 ^^^ mul0E a3

/-- MixColumns "works 'independently on each of the 4 state columns'" (R75). -/
def mixColumns (b : Block) : Block :=
  ofCells fun r c => mixRow r (cell b 0 c) (cell b 1 c) (cell b 2 c) (cell b 3 c)

/-- InvMixColumns (R76). -/
def invMixColumns (b : Block) : Block :=
  ofCells fun r c => invMixRow r (cell b 0 c) (cell b 1 c) (cell b 2 c) (cell b 3 c)

/-- `rot_k(x)`: each 32-bit column of the lane rotated right by `8k` bits, so that row `r+k` moves to
row `r` (R75; 90_conflicts.md C3). -/
def rotColumns (k : Nat) (x : Lane) : Lane :=
  (x.extractLsb' 32 32).rotateRight (8 * k) ++ (x.extractLsb' 0 32).rotateRight (8 * k)

/-- The lane form of MixColumns, two columns at once (R75). The commands use the matrix form. -/
def mixLane (x : Lane) : Lane :=
  xtime8 (x ^^^ rotColumns 1 x) ^^^ rotColumns 1 x ^^^ rotColumns 2 x ^^^ rotColumns 3 x

/-- The lane form of InvMixColumns, with three doublings (R76). -/
def invMixLane (x : Lane) : Lane := mixLane (x ^^^ xtime8 (xtime8 (x ^^^ rotColumns 2 x)))

/-- The effect of SHIFTROWS at completion. -/
def shiftrowsEffect (s : State) : State := s.setSReg (shiftRows s.sReg)

/-- SHIFTROWS: `S <- ShiftRows(S)` (R78). -/
def execShiftrows (s : State) : Result := runChecked .shiftrows shiftrowsEffect s

/-- The effect of INVSHIFTROWS at completion. -/
def invshiftrowsEffect (s : State) : State := s.setSReg (invShiftRows s.sReg)

/-- INVSHIFTROWS: `S <- InvShiftRows(S)` (R79). -/
def execInvshiftrows (s : State) : Result := runChecked .invshiftrows invshiftrowsEffect s

/-- The effect of MIXCOLUMNS at completion. -/
def mixcolumnsEffect (s : State) : State := s.setSReg (mixColumns s.sReg)

/-- MIXCOLUMNS: `S <- MixColumns(S)` (R80). -/
def execMixcolumns (s : State) : Result := runChecked .mixcolumns mixcolumnsEffect s

/-- The effect of INVMIXCOLUMNS at completion. -/
def invmixcolumnsEffect (s : State) : State := s.setSReg (invMixColumns s.sReg)

/-- INVMIXCOLUMNS: `S <- InvMixColumns(S)` (R81). -/
def execInvmixcolumns (s : State) : Result := runChecked .invmixcolumns invmixcolumnsEffect s

end Sys2Proof.Machine
end

