-- ==== Sys2Proof/Machine/Transfer.lean ====
section
/-! DEFINITION. Round-key combination, state transfer and NOP (43_roundkey_transfer.md). -/

namespace Sys2Proof.Machine

/-- AddRoundKey: `(S.L1 ^ K.L1, S.L0 ^ K.L0)` (R82). -/
def addRoundKey (b k : Block) : Block := b.xor k

/-- The effect of ADDRK at completion. -/
def addrkEffect (ridx : Nat) (s : State) : State := s.setSReg (addRoundKey s.sReg (roundKey s.rk ridx))

/-- ADDRK: `S <- AddRoundKey(S, RK[RIDX])`, refused with NO_KEY or BAD_RIDX (R83). -/
def execAddrk (ridx : Nat) (s : State) : Result := runChecked (.addrk ridx) (addrkEffect ridx) s

/-- The effect of LOAD at completion. -/
def loadEffect (s : State) : State := s.setSReg (dinBlock s.din)

/-- LOAD: `S` <- `DIN` (R84). -/
def execLoad (s : State) : Result := runChecked .load loadEffect s

/-- The effect of STORE at completion. -/
def storeEffect (s : State) : State := s.setDout (doutWords s.sReg)

/-- STORE: `DOUT` <- `S` (R85). -/
def execStore (s : State) : Result := runChecked .store storeEffect s

/-- The effect of NOP at completion. -/
def nopEffect (s : State) : State := s

/-- NOP: "no effect" (R86). -/
def execNop (s : State) : Result := runChecked .nop nopEffect s

end Sys2Proof.Machine
end

