-- ==== Sys2Proof/Machine/Driver.lean ====
section
/-! DEFINITION. The block cipher driver, ENCRYPT and DECRYPT (45_driver.md; 90_conflicts.md C2). -/

namespace Sys2Proof.Machine

/-- A round 1 to `Nr - 1` of the cipher (R96). -/
def cipherRound (rk : Vector Block 15) (s : Block) (i : Nat) : Block :=
  addRoundKey (mixColumns (shiftRows (subBytes s))) (roundKey rk i)

/-- The final round, without mixing (R96). -/
def cipherFinal (rk : Vector Block 15) (nr : Nat) (s : Block) : Block :=
  addRoundKey (shiftRows (subBytes s)) (roundKey rk nr)

/-- `Cipher(X, RK, Nr)` (R96). -/
def cipher (x : Block) (rk : Vector Block 15) (nr : Nat) : Block :=
  cipherFinal rk nr
    ((List.range' 1 (nr - 1)).foldl (cipherRound rk) (addRoundKey x (roundKey rk 0)))

/-- A round `Nr - 1` down to 1 of the inverse cipher (R97). -/
def invCipherRound (rk : Vector Block 15) (s : Block) (i : Nat) : Block :=
  invMixColumns (addRoundKey (invSubBytes (invShiftRows s)) (roundKey rk i))

/-- The final step of the inverse cipher (R97). -/
def invCipherFinal (rk : Vector Block 15) (s : Block) : Block :=
  addRoundKey (invSubBytes (invShiftRows s)) (roundKey rk 0)

/-- `InvCipher(Y, RK, Nr)`: the same round keys in reverse order (R97). -/
def invCipher (y : Block) (rk : Vector Block 15) (nr : Nat) : Block :=
  invCipherFinal rk
    ((List.range' 1 (nr - 1)).reverse.foldl (invCipherRound rk) (addRoundKey y (roundKey rk nr)))

/-- The result of a block operation goes to both `S` and `DOUT` (R98, R99; D23). -/
def deliver (b : Block) (s : State) : State := (s.setSReg b).setDout (doutWords b)

/-- The effect of ENCRYPT at completion. -/
def encryptEffect (s : State) : State := deliver (cipher (dinBlock s.din) s.rk s.nr.toNat) s

/-- ENCRYPT encrypts the block in `DIN` under the current schedule; refused with NO_KEY (R98). -/
def execEncrypt (s : State) : Result := runChecked .encrypt encryptEffect s

/-- The effect of DECRYPT at completion. -/
def decryptEffect (s : State) : State := deliver (invCipher (dinBlock s.din) s.rk s.nr.toNat) s

/-- DECRYPT decrypts the block in `DIN` under the current schedule; refused with NO_KEY (R99). -/
def execDecrypt (s : State) : Result := runChecked .decrypt decryptEffect s

end Sys2Proof.Machine
end

