-- ==== Sys2Proof/Machine/KeySchedule.lean ====
section
/-! DEFINITION. The key schedule expander and KEYSETUP (44_key_schedule.md; 90_conflicts.md C3, C4; log 11). -/

namespace Sys2Proof.Machine

/-- `RotWord(w) = rotr_32(w, 8)`: the byte sequence rotated left by one (R89). -/
def rotWord (w : Word) : Word := w.rotateRight 8

/-- `SubWord(w) = sub_4(w)` (R90). -/
def subWord (w : Word) : Word := sub4 w

/-- The word XORed with the word `Nk` positions earlier, from the previous word `t` at index `i` (R92). -/
def scheduleTerm (nk i : Nat) (t rc : Word) : Word :=
  if i % nk = 0 then subWord (rotWord t) ^^^ rc
  else if nk = 8 ∧ i % nk = 4 then subWord t
  else t

/-- The round constant after index `i`: advanced by doubling where it was used (R91, R92). -/
def nextRc (nk i : Nat) (rc : Word) : Word := if i % nk = 0 then xtime4 rc else rc

/-- The loop of R92: `n` further words after the words `ws`, the next index being `ws.length`. -/
def expandLoop (nk : Nat) : Nat → List Word → Word → List Word
  | 0, ws, _ => ws
  | n + 1, ws, rc =>
    let i := ws.length
    let w := ws.getD (i - nk) 0 ^^^ scheduleTerm nk i (ws.getD (i - 1) 0) rc
    expandLoop nk n (ws ++ [w]) (nextRc nk i rc)

/-- `KeyExpansion(KEY[0..Nk-1], Nk, Nr)`: `4(Nr + 1)` words, from the `Nk` key words (R88) and
`rc = 0x00000001` (R91, R92). -/
def keyExpansion (key : List Word) (nk nr : Nat) : List Word :=
  expandLoop nk (4 * (nr + 1) - nk) key 0x00000001

/-- Round key `i`: `L0 = w[4i+1] : w[4i]`, `L1 = w[4i+3] : w[4i+2]` (R93). -/
def roundKeyOfWords (w : List Word) (i : Nat) : Block :=
  ⟨w.getD (4 * i + 1) 0 ++ w.getD (4 * i) 0, w.getD (4 * i + 3) 0 ++ w.getD (4 * i + 2) 0⟩

/-- The round-key file after KEYSETUP: round keys 0 to `Nr`, and zero above (R94). -/
def scheduleFile (key : List Word) (nk nr : Nat) : Vector Block 15 :=
  let w := keyExpansion key nk nr
  ⟨((List.range 15).map fun i => if i ≤ nr then roundKeyOfWords w i else Block.zero).toArray, rfl⟩

/-- What a KEYSETUP of `nk` key words and `nr` rounds writes: the round-key file, `NR` and
`KEY_VALID` (R94). -/
def installSchedule (nk nr : Nat) (s : State) : State :=
  s.setSchedule (scheduleFile (keyWords s nk) nk nr) (BitVec.ofNat 4 nr)

/-- The effect of KEYSETUP at completion; a key length it does not recognize has none. -/
def keysetupEffect (klen : Nat) (s : State) : State :=
  match keyParams klen with
  | some (nk, nr) => installSchedule nk nr s
  | none => s

/-- KEYSETUP expands the master key into the round-key file; `KLEN` = 3 is refused with BAD_KEYLEN
(R94). -/
def execKeysetup (klen : Nat) (s : State) : Result := runChecked (.keysetup klen) (keysetupEffect klen) s

end Sys2Proof.Machine
end

