-- ==== Sys2Proof/Machine/Step.lean ====
section
/-! DEFINITION. One step of the machine (60_exceptions.md R116), and the state in which the next step runs
a given command word. -/

namespace Sys2Proof.Machine

/-- The core step (R116): run the pending command, then `BUSY` <- 0 and no pending command. A pending word
is always a command, since only a legal word is issued; were it none, it would be discarded with
ILLEGAL_CMD (log 5). -/
def coreStep (s : State) : Result :=
  match s.pending with
  | none => .next s
  | some v =>
    match decode v with
    | .ok i => retire (exec i s)
    | .error _ => retire (.next (raiseErr .illegalCmd s))

/-- One step of the machine: the one move that is next. -/
def step (s : State) : Host.Outcome State Fault Refusal :=
  match nextMove s with
  | .reset rest => .next (assertReset rest)
  | .core t => coreStep t
  | .perform a t => performAccess a t
  | .wait t => .next t

/-- `s` with the word in the place where the core takes its next command from: the word is the pending
command, and the core has the turn (log 6). -/
def State.withFetchWord (s : State) (nbits w : Nat) : State :=
  (s.setPending (some (BitVec.ofNat 32 (w % 2 ^ nbits)))).setInputs (.coreTurn :: s.inputs)

end Sys2Proof.Machine
end

