-- ==== Sys2Proof/Safety.lean ====
section
/-! DEFINITION. What counts as a safe state and a safe run, in the terms the statements use: the invariants
that rule out states no run reaches, runs without a bus error or a recorded command error, and the accesses a
master presents. -/

namespace Sys2Proof.Machine

/-- The error action of 60_exceptions.md R103 written out: the first error is kept. -/
def recorded (code : BitVec 4) (s : State) : State :=
  if s.err = true then s else { s with err := true, errcode := code }

/-- The port is free and a master presents the access `a`; `rest` is to come. -/
def Presents (s : State) (a : Access) (rest : List Input) : Prop :=
  s.request = none ∧ s.inputs = .access a :: rest

/-- A 32-bit write of `v` at an offset of the window. -/
def write32 (offset : BitVec 8) (v : Word) : Access := ⟨true, offset, 0xF, v⟩

/-- A 32-bit read at an offset of the window; `d` is on the write-data lines, which a read ignores. -/
def read32 (offset : BitVec 8) (d : Word) : Access := ⟨false, offset, 0xF, d⟩

/-- An access that 20_memory.md R34 calls legal, by its offset and byte enables alone. -/
def LegalAccess (a : Access) : Prop :=
  a.byteEnable = 0xF ∧ a.offset.toNat % 4 = 0 ∧ a.offset.toNat < 0x50 ∧
  a.offset.toNat ≠ 0x08 ∧ a.offset.toNat ≠ 0x0C

/-- A legal access to `STATUS`. -/
def StatusAccess (a : Access) : Prop := a.byteEnable = 0xF ∧ a.offset = 0x04

/-- In state `s` the step performs a legal write to `STATUS` with bit 2 = 1, presented now or held. -/
def WritesStatusBit2 (s : State) : Prop :=
  ∃ a : Access, (s.request = some a ∨ ∃ rest, Presents s a rest) ∧
    StatusAccess a ∧ a.write = true ∧ a.wdata.getLsbD 2 = true

/-- `t` is what a command's meaning answered, completed: no command pending (60_exceptions.md R116). -/
def Completes (o : Result) (t : State) : Prop := ∃ u, o = .next u ∧ t = { u with pending := none }

/-- `ERRCODE` is "0 when `ERR` = 0" (10_state.md R25) and one of the codes 1 to 4 otherwise: "5-15
reserved, never produced" (60_exceptions.md R102). -/
def errorLegal (s : State) : Prop :=
  (s.err = false ∧ s.errcode = 0) ∨ (s.err = true ∧ 1 ≤ s.errcode.toNat ∧ s.errcode.toNat ≤ 4)

/-- `KEY_VALID` is "1 when the round-key file holds a schedule produced by a successful `KEYSETUP`", and
`NR` is "0 when no schedule exists" (10_state.md R18 to R20). -/
def scheduleLegal (s : State) : Prop :=
  (s.keyValid = false ∧ s.nr = 0 ∧ s.rk = Vector.replicate 15 Block.zero) ∨
  (s.keyValid = true ∧ ∃ klen nk nr key,
    keyParams klen = some (nk, nr) ∧ key.length = nk ∧
    s.nr = BitVec.ofNat 4 nr ∧ s.rk = scheduleFile key nk nr)

/-- A pending word is a legal command that passed its checks (30_encoding.md R55), and passes them still. -/
def pendingLegal (s : State) : Prop :=
  ∀ v, s.pending = some v → ∃ i, decode v = .ok i ∧ precheck i s = none

/-- The port never holds a legal access to `STATUS` (20_memory.md R42). -/
def requestLegal (s : State) : Prop := ∀ a, s.request = some a → accessReg a ≠ some .status

/-- The invariant of the machine: what holds in every state that a run reaches. -/
def State.Inv (s : State) : Prop := errorLegal s ∧ scheduleLegal s ∧ pendingLegal s ∧ requestLegal s

/-- No command error is recorded: D9's premise, "claims take 'no error recorded' as a premise". -/
def State.NoError (s : State) : Prop := s.err = false

/-- A step that neither stops nor records an error. -/
def SafeStep (s : State) : Prop := ∃ t, step s = .next t ∧ (s.NoError → t.NoError)

end Sys2Proof.Machine
end

