-- ==== Sys2Proof/Certificates/Slice0/Obligations.lean ====
section
/-! DEFINITION. The statements for the provers: what the spec's numbered rules say of the commands, the
register window, the errors, reset and the step. -/

open Sys2Proof Sys2Proof.Machine

/-! ## Encoding -/

/-- 30_encoding.md §1, §2, §4: decoding the word of a well-formed command gives the command back, with every
operand value. -/
def Obligations.EncodedCommandsDecodeBack : Prop :=
  ∀ i : Instr, i.WellFormed → decode (encode i) = .ok i

/-- 30_encoding.md §4, "every 32-bit word is either exactly one command of rule R51 or `ILLEGAL`": a word
that decodes is the one word of a well-formed command. -/
def Obligations.DecodedWordsAreEncodings : Prop :=
  ∀ (v : Word) (i : Instr), decode v = .ok i → i.WellFormed ∧ encode i = v

/-- 30_encoding.md §4, "A word is the command `c` exactly when `(v & mask_c) = match_c` for `c`'s row of
opcode_table.json. No two rows match one word." -/
def Obligations.DecodingAgreesWithTheOpcodeTable : Prop :=
  (∀ (v : Word) (r : OpcodeRow), r ∈ opcodeTable →
    (v &&& r.mask = r.value ↔ ∃ i, decode v = .ok i ∧ i.row = r)) ∧
  (∀ (v : Word) (r r' : OpcodeRow), r ∈ opcodeTable → r' ∈ opcodeTable →
    v &&& r.mask = r.value → v &&& r'.mask = r'.value → r = r')

/-- 30_encoding.md R54: the conditions of a legal word; with `OP` below 0xE (R51) they are all of them. -/
def Obligations.LegalWordConditions : Prop :=
  ∀ v : Word, (∃ i, decode v = .ok i) ↔
    (v.extractLsb' 4 4 = 0 ∧ v.extractLsb' 10 6 = 0 ∧ v.extractLsb' 20 12 = 0 ∧
      v.extractLsb' 0 4 < 0xE ∧
      (v.extractLsb' 0 4 ≠ 0x1 → v.extractLsb' 8 2 = 0) ∧
      (v.extractLsb' 0 4 ≠ 0x6 → v.extractLsb' 16 4 = 0))

/-- 30_encoding.md §5, "exactly 12 + 4 + 16 = 32 are legal". -/
def Obligations.ExactlyThirtyTwoWordsAreLegal : Prop :=
  ∃ ws : List Word, ws.length = 32 ∧ ws.Nodup ∧ ∀ v : Word, (∃ i, decode v = .ok i) ↔ v ∈ ws

/-- 30_encoding.md §1 to §5: words written out from the encoding, one of each family. -/
def Obligations.WordsOfTheSpecDecode : Prop :=
  decode 0x00000000 = .ok .nop ∧ decode 0x00000201 = .ok (.keysetup 2) ∧
  decode 0x00000301 = .ok (.keysetup 3) ∧ decode 0x00000002 = .ok .encrypt ∧
  decode 0x000A0006 = .ok (.addrk 10) ∧ decode 0x00000008 = .ok .invsubbytes ∧
  decode 0x0000000B = .ok .mixcolumns ∧ decode 0x0000000D = .ok .xtime ∧
  decode 0x0000000E = .error .illegalOpcode ∧ decode 0x00000010 = .error .reservedBits ∧
  decode 0x00000102 = .error .unusedKlen ∧ decode 0x00010002 = .error .unusedRidx

/-! ## The step -/

/-- 60_exceptions.md §3: the core step runs the meaning of the pending command's word and completes it. It
is the next step when the core has the turn, when nothing more is to come, and when an access is held; in
the first case the turn is used up, in the others the inputs stay. The scheduling is the model's (log 2). -/
def Obligations.CoreStepRunsThePendingCommand : Prop :=
  ∀ (s : State) (v : Word) (i : Instr), s.pending = some v → decode v = .ok i →
    (∀ rest, s.inputs = .coreTurn :: rest →
      ∃ t, step s = .next t ∧ Completes (exec i { s with inputs := rest, response := none }) t) ∧
    (s.inputs = [] → ∃ t, step s = .next t ∧ Completes (exec i { s with response := none }) t) ∧
    (∀ a b rest, s.request = some a → ¬ StatusAccess a → s.inputs = .access b :: rest →
      ∃ t, step s = .next t ∧ Completes (exec i { s with response := none }) t)

/-- The model's place for a command word (log 6): the next step of `withFetchWord` decodes that word and
runs its meaning, and only that. -/
def Obligations.FetchedWordIsRun : Prop :=
  ∀ (s : State) (w : Nat) (i : Instr), decodeTableWord 32 w = some i →
    ∃ t, step (s.withFetchWord 32 w) = .next t ∧
      Completes (exec i { s with pending := some (BitVec.ofNat 32 w), response := none }) t

/-- 60_exceptions.md R104, R103: what a write of `v` to `CTRL` does with no command in progress; the checks in
their order, at most one error, and otherwise the command is issued. -/
def Obligations.CtrlWriteChecksInOrder : Prop :=
  ∀ (s : State) (v : Word) (rest : List Input), s.pending = none → Presents s (write32 0x00 v) rest →
    let u := { s with inputs := rest, response := some .written }
    (∀ e, decode v = .error e → step s = .next (recorded 1 u)) ∧
    (∀ i, decode v = .ok i →
      (i = .keysetup 3 → step s = .next (recorded 2 u)) ∧
      (i ≠ .keysetup 3 →
        ((i = .encrypt ∨ i = .decrypt ∨ ∃ r, i = .addrk r) ∧ s.keyValid = false →
          step s = .next (recorded 3 u)) ∧
        (¬((i = .encrypt ∨ i = .decrypt ∨ ∃ r, i = .addrk r) ∧ s.keyValid = false) →
          (∀ r, i = .addrk r → s.nr.toNat < r → step s = .next (recorded 4 u)) ∧
          ((∀ r, i = .addrk r → r ≤ s.nr.toNat) → step s = .next { u with pending := some v }))))

/-- 20_memory.md §4, the hold of R42. While a command is pending, (1) an access other than a legal access to
`STATUS`, illegal accesses among them, is held and changes no register; (2) the next step that is not a
reset is the core's, and the access stays held; (3) with the command completed the held access is
performed, a bus error if it is illegal; (4) a `STATUS` read answers `BUSY` = 1 and changes nothing;
(5) a `STATUS` write is performed at once. That in (2) the next step is the core's, and that the held access
comes before any later `STATUS` access, is the model's choice (log 2): R42 and 60_exceptions.md R116 do not
exclude another master's `STATUS` access in between. How `inputs` and `response` are kept is the model's too
(log 1, log 3). -/
def Obligations.AccessesAreHeldWhileBusy : Prop :=
  ∀ s : State, s.pending ≠ none →
    (∀ a rest, Presents s a rest → ¬ StatusAccess a →
      step s = .next { s with request := some a, inputs := rest, response := none }) ∧
    (∀ a, s.request = some a → ¬ StatusAccess a → s.inputs.head? ≠ some .reset →
      ∃ t, step s = .next t ∧ t.pending = none ∧ t.request = some a ∧ t.response = none ∧
        (t.inputs = s.inputs ∨ s.inputs = .coreTurn :: t.inputs) ∧
        (t.inputs.head? ≠ some .reset →
          (¬ LegalAccess a →
            step t = .fault (.busError (if a.write then .writeError else .readError 0))) ∧
          (LegalAccess a → ∃ u rest, step t = performAccess a
              { t with request := none, inputs := rest, response := none } ∧ step t = .next u ∧
            (rest = t.inputs ∨ t.inputs = .coreTurn :: rest)))) ∧
    (∀ d rest, Presents s (read32 0x04 d) rest → ∃ w : Word, w.getLsbD 0 = true ∧ w = statusWord s ∧
      step s = .next { s with inputs := rest, response := some (.read w) }) ∧
    (∀ v rest, Presents s (write32 0x04 v) rest →
      step s = .next (if v.getLsbD 2 = true
        then { s with err := false, errcode := 0, inputs := rest, response := some .written }
        else { s with inputs := rest, response := some .written }))

/-- 20_memory.md R34: an access that is not legal completes with a bus error (a fault of the model), a read
returning 0; a legal access is performed. -/
def Obligations.IllegalAccessIsABusError : Prop :=
  ∀ (s : State) (a : Access) (rest : List Input), s.pending = none → Presents s a rest →
    (¬ LegalAccess a →
      step s = .fault (.busError (if a.write then .writeError else .readError 0))) ∧
    (LegalAccess a → ∃ t, step s = .next t ∧
      (a.write = true → t.response = some .written) ∧
      (a.write = false → ∃ v, t.response = some (.read v)))

/-- 20_memory.md R36: a read has no side effect; a write to `CTRL` issues a command; a write to `STATUS` with
bit 2 set clears `ERR` and `ERRCODE`; a write to `KEYj` or `DINj` sets that register and has no other effect;
a write to `DOUTj` has no effect. -/
def Obligations.SideEffectsOfAccesses : Prop :=
  ∀ (s : State) (rest : List Input), s.pending = none →
    let after := fun r : BusResponse => { s with inputs := rest, response := some r }
    (∀ a, Presents s a rest → LegalAccess a → a.write = false →
      ∃ v, step s = .next (after (.read v))) ∧
    (∀ v, Presents s (write32 0x00 v) rest → step s = .next (issue v (after .written))) ∧
    (∀ v, Presents s (write32 0x04 v) rest → step s = .next
      (if v.getLsbD 2 = true then { after .written with err := false, errcode := 0 }
       else after .written)) ∧
    (∀ (j : Nat) (h : j < 8) (v : Word), Presents s (write32 (BitVec.ofNat 8 (0x10 + 4 * j)) v) rest →
      step s = .next { after .written with key := s.key.set j v h }) ∧
    (∀ (j : Nat) (h : j < 4) (v : Word), Presents s (write32 (BitVec.ofNat 8 (0x30 + 4 * j)) v) rest →
      step s = .next { after .written with din := s.din.set j v h }) ∧
    (∀ (j : Nat) (v : Word), j < 4 → Presents s (write32 (BitVec.ofNat 8 (0x40 + 4 * j)) v) rest →
      step s = .next (after .written))

/-- 20_memory.md §1, the register map: what a read of each register returns. -/
def Obligations.ReadsReturnTheMappedRegisters : Prop :=
  ∀ (s : State) (rest : List Input) (d : Word), s.pending = none →
    let answers := fun (offset : Nat) (v : Word) => Presents s (read32 (BitVec.ofNat 8 offset) d) rest →
      step s = .next { s with inputs := rest, response := some (.read v) }
    answers 0x00 0 ∧ answers 0x04 (statusWord s) ∧
    (∀ j, j < 8 → answers (0x10 + 4 * j) 0) ∧
    (∀ (j : Nat) (_ : j < 4), answers (0x30 + 4 * j) s.din[j]) ∧
    (∀ (j : Nat) (_ : j < 4), answers (0x40 + 4 * j) s.dout[j])

/-- 10_state.md §3, the fields of `STATUS`, and the word as one sum. -/
def Obligations.StatusWordHoldsTheFields : Prop :=
  ∀ s : State, let w := statusWord s
    w.getLsbD 0 = s.pending.isSome ∧ w.getLsbD 1 = s.keyValid ∧ w.getLsbD 2 = s.err ∧
    w.getLsbD 3 = false ∧ w.extractLsb' 4 4 = s.errcode ∧ w.extractLsb' 8 4 = s.nr ∧
    w.extractLsb' 12 20 = 0 ∧
    w.toNat = s.nr.toNat * 0x100 + s.errcode.toNat * 0x10 + s.err.toNat * 4 + s.keyValid.toNat * 2 +
      s.pending.isSome.toNat

/-- 20_memory.md §1: the window is the 0x100 bytes at `BASE`, aligned to 0x100; an address in it reaches the
port with its offset, and no other address does. -/
def Obligations.WindowSitsAtBase : Prop :=
  Config.base % 0x100 = 0 ∧
  (∀ (offset : BitVec 8) (wr : Bool) (be : BitVec 4) (d : Word),
    windowAccess (Config.base + offset.toNat) wr be d = some ⟨wr, offset, be, d⟩) ∧
  (∀ (addr : Nat) (wr : Bool) (be : BitVec 4) (d : Word),
    (addr < Config.base ∨ Config.base + 0x100 ≤ addr) → windowAccess addr wr be d = none)

/-- 60_exceptions.md §3 and 20_memory.md §2: only an illegal access stops the machine, and only while no command
is pending; every command answers a next state. -/
def Obligations.OnlyIllegalAccessesStopTheMachine : Prop :=
  (∀ (i : Instr) (s : State), ∃ t, exec i s = .next t) ∧
  (∀ s : State, (∃ t, step s = .next t) ∨
    (s.pending = none ∧ ∃ a : Access, (s.request = some a ∨ ∃ rest, Presents s a rest) ∧
      ¬ LegalAccess a ∧
      step s = .fault (.busError (if a.write then .writeError else .readError 0))))

/-! ## Reset -/

/-- 70_reset_and_hazards.md R117, R118: the state after `rst`, whatever was pending or held. -/
def Obligations.ResetClearsEveryRegister : Prop :=
  ∀ (s : State) (rest : List Input), s.inputs = .reset :: rest →
    ∃ t, step s = .next t ∧ t.sReg = ⟨0, 0⟩ ∧ (∀ (i : Nat) (_ : i < 15), t.rk[i] = ⟨0, 0⟩) ∧
      t.nr = 0 ∧ t.keyValid = false ∧ (∀ (j : Nat) (_ : j < 8), t.key[j] = 0) ∧
      (∀ (j : Nat) (_ : j < 4), t.din[j] = 0 ∧ t.dout[j] = 0) ∧ t.err = false ∧ t.errcode = 0 ∧
      statusWord t = 0 ∧ t.pending = none ∧ t.request = none

/-- The invariant holds right after reset. -/
def Obligations.ResetStateIsLegal : Prop := State.reset.Inv

/-- From every state that meets the invariant, a step that answers a next state gives a state that meets
it: the error code is legal, `RK` and `NR` hold a schedule exactly when `KEY_VALID` = 1 (10_state.md §2),
a pending word is a command that passes its checks (30_encoding.md §4), and the port holds no legal access
to `STATUS` (20_memory.md §4). -/
def Obligations.StepKeepsTheMachineLegal : Prop :=
  ∀ s t : State, s.Inv → step s = .next t → t.Inv

/-! ## Errors -/

/-- 60_exceptions.md R105: `ERR` stays 1 with the first code until a `STATUS` write clears it or reset; a
completing command never clears it; and errors never block later commands: commands are checked and run as
if `ERR` were 0. -/
def Obligations.ErrorsAreStickyAndNeverBlock : Prop :=
  (∀ s t : State, s.err = true → step s = .next t → s.inputs.head? ≠ some .reset →
    ¬ WritesStatusBit2 s → t.err = true ∧ t.errcode = s.errcode) ∧
  (∀ (i : Instr) (s : State), s.err = true → ∃ t, exec i s = .next t ∧ t.err = true) ∧
  (∀ (i : Instr) (s : State) (c : BitVec 4), ∃ t u, exec i { s with err := false, errcode := 0 } = .next t ∧
    exec i { s with err := true, errcode := c } = .next u ∧
    u = { t with err := true, errcode := c }) ∧
  (∀ (v : Word) (s : State) (c : BitVec 4),
    issue v { s with err := true, errcode := c } =
      { issue v { s with err := false, errcode := 0 } with err := true, errcode := c })

/-- 60_exceptions.md R106: a `STATUS` write with bit 2 = 1 clears the error at once, also while a command is
pending; with bit 2 = 0 it changes nothing; and nothing else but reset clears `ERR`. -/
def Obligations.StatusWriteIsTheOnlyReturnFromAnError : Prop :=
  (∀ (s : State) (v : Word) (rest : List Input), Presents s (write32 0x04 v) rest →
    (v.getLsbD 2 = true →
      step s = .next { s with err := false, errcode := 0, inputs := rest, response := some .written }) ∧
    (v.getLsbD 2 = false → step s = .next { s with inputs := rest, response := some .written })) ∧
  (∀ s t : State, s.err = true → step s = .next t → t.err = false →
    s.inputs.head? = some .reset ∨ WritesStatusBit2 s)

/-- 10_state.md §2 and 20_memory.md §4: only the completion of a KEYSETUP with a recognized key length changes
`RK`, `NR` or `KEY_VALID` (a KEYSETUP that stays pending changes none of them), and only reset clears
`KEY_VALID`. -/
def Obligations.OnlyKeysetupChangesTheSchedule : Prop :=
  ∀ s t : State, step s = .next t → s.inputs.head? ≠ some .reset →
    (t.rk = s.rk ∧ t.nr = s.nr ∧ t.keyValid = s.keyValid) ∨
    (t.keyValid = true ∧ t.pending = none ∧
      ∃ v klen, s.pending = some v ∧ decode v = .ok (.keysetup klen) ∧ klen < 3)

/-! ## Whole runs of a command -/

/-- 20_memory.md §4 and 70_reset_and_hazards.md §2: a command issued by a `CTRL` write and completed after any
number `n` of `STATUS` reads leaves exactly its effect on the state at its issue: the result does not depend on
the latency. The order of the steps is scheduled by `inputs`, the model's choice (log 1). -/
def Obligations.IssuedCommandCompletesWithItsEffect : Prop :=
  ∀ (s t : State) (v d : Word) (i : Instr) (n : Nat) (rest : List Input),
    s.pending = none → decode v = .ok i → precheck i s = none →
    Presents s (write32 0x00 v)
      (List.replicate n (Input.access (read32 0x04 d)) ++ Input.coreTurn :: rest) →
    exec i { s with inputs := rest, response := none } = .next t →
    Sys2Proof.core.run (n + 2) s = .next t

/-- 60_exceptions.md §3, "A core step is always eventually taken once `BUSY` = 1". Where no reset is to come,
`k` steps lead to a state `u` in which the command is still pending and no register but `ERR` and `ERRCODE` (a
`STATUS` write clears them) has changed, and the next step is the command's completion: it answers what the
command's meaning answers on `u`. From every state, whatever is to come, no command is pending within two steps
more than there are inputs: the pending one has completed, or a reset has abandoned it. The bounds rest on the
model's scheduling (log 1, log 2). -/
def Obligations.EveryCommandCompletes : Prop :=
  (∀ (s : State) (v : Word) (i : Instr), s.pending = some v → decode v = .ok i → .reset ∉ s.inputs →
    ∃ k u t, k ≤ s.inputs.length + 1 ∧ Sys2Proof.core.run k s = .next u ∧
      u = { s with err := u.err, errcode := u.errcode, request := u.request, response := u.response,
                   inputs := u.inputs } ∧
      step u = .next t ∧
      Completes (exec i { u with inputs := t.inputs, response := none }) t) ∧
  (∀ s : State, ∃ k t, k ≤ s.inputs.length + 2 ∧
    Sys2Proof.core.run k s = .next t ∧ t.pending = none)

/-- 70_reset_and_hazards.md §2: a read of `DOUTj` presented right after an ENCRYPT is held, and answers the
ciphertext's word. That the core moves when nothing more is to come is the model's scheduling (log 2). -/
def Obligations.ReadAfterEncryptReturnsTheCiphertext : Prop :=
  ∀ (s : State) (j : Nat) (h : j < 4) (d : Word), s.pending = none → s.keyValid = true →
    Presents s (write32 0x00 0x00000002)
      [Input.access (read32 (BitVec.ofNat 8 (0x40 + 4 * j)) d)] →
    ∃ t, Sys2Proof.core.run 4 s = .next t ∧
      t.response =
        some (.read (doutWords (cipher (dinBlock s.din) s.rk s.nr.toNat))[j])

/-! ## The commands -/

/-- 43_roundkey_transfer.md R86: NOP changes nothing, and is pending between its issue and its completion. -/
def Obligations.NopChangesNothing : Prop :=
  decode 0x00000000 = .ok .nop ∧
  (∀ s : State, exec .nop s = .next s) ∧
  (∀ (s : State) (rest : List Input), s.pending = none →
    Presents s (write32 0x00 0x00000000) (.coreTurn :: rest) →
    ∃ t, step s = .next t ∧
      t = { s with pending := some 0, inputs := .coreTurn :: rest, response := some .written } ∧
      step t = .next { s with inputs := rest, response := none })

/-- 43_roundkey_transfer.md R84: LOAD copies `DIN` to `S` and changes nothing else; block byte `k` lands in
`byte(S, k)`; LOAD then STORE copies `DIN` to `DOUT`. -/
def Obligations.LoadCopiesDinToTheState : Prop :=
  decode 0x00000004 = .ok .load ∧
  ∀ s : State, ∃ b : Block, exec .load s = .next { s with sReg := b } ∧
    b.l0 = s.din[1] ++ s.din[0] ∧ b.l1 = s.din[3] ++ s.din[2] ∧
    (∀ (j m : Nat) (_ : j < 4), m < 4 → blockByte b (4 * j + m) = wordByte s.din[j] m) ∧
    exec .store { s with sReg := b } = .next { s with sReg := b, dout := s.din }

/-- 43_roundkey_transfer.md R85: STORE copies `S` to `DOUT` and changes nothing else. -/
def Obligations.StoreCopiesTheStateToDout : Prop :=
  decode 0x00000005 = .ok .store ∧
  ∀ s : State, ∃ d : Vector Word 4, exec .store s = .next { s with dout := d } ∧
    d[0] = s.sReg.l0.extractLsb' 0 32 ∧ d[1] = s.sReg.l0.extractLsb' 32 32 ∧
    d[2] = s.sReg.l1.extractLsb' 0 32 ∧ d[3] = s.sReg.l1.extractLsb' 32 32 ∧
    (∀ (j m : Nat) (_ : j < 4), m < 4 → wordByte d[j] m = blockByte s.sReg (4 * j + m))

/-- 43_roundkey_transfer.md R83, R82: ADDRK is refused with NO_KEY, then with BAD_RIDX, and otherwise XORs
`RK[RIDX]` into `S` and changes nothing else; from `S` = 0 it gives the round key, and twice restores `S`.
`NR` is at most 14 in every state that meets the invariant. -/
def Obligations.AddrkXorsOneRoundKey : Prop :=
  (∀ r, r < 16 → decode (0x00000006 ||| BitVec.ofNat 32 r <<< 16) = .ok (.addrk r)) ∧
  ∀ (s : State) (r : Nat),
    (s.keyValid = false → exec (.addrk r) s = .next (recorded 3 s)) ∧
    (s.keyValid = true → s.nr.toNat < r → exec (.addrk r) s = .next (recorded 4 s)) ∧
    (s.keyValid = true → ∀ (_ : r ≤ s.nr.toNat) (_ : s.nr.toNat ≤ 14),
      ∃ b : Block, exec (.addrk r) s = .next { s with sReg := b } ∧
        b.l0 = s.sReg.l0 ^^^ (s.rk[r]'(by omega)).l0 ∧ b.l1 = s.sReg.l1 ^^^ (s.rk[r]'(by omega)).l1 ∧
        (s.sReg = ⟨0, 0⟩ → b = s.rk[r]'(by omega)) ∧
        exec (.addrk r) { s with sReg := b } = .next s)

/-- 41_sbox.md R71: SUBBYTES substitutes every byte of `S`, each of which changes, and changes nothing else. -/
def Obligations.SubbytesSubstitutesEveryByte : Prop :=
  decode 0x00000007 = .ok .subbytes ∧ sbox 0x00 = 0x63 ∧ sbox 0x52 = 0x00 ∧
  ∀ s : State, ∃ b : Block, exec .subbytes s = .next { s with sReg := b } ∧
    b.l0 = sub8 s.sReg.l0 ∧ b.l1 = sub8 s.sReg.l1 ∧
    ∀ k, k < 16 → blockByte b k = sbox (blockByte s.sReg k) ∧ blockByte b k ≠ blockByte s.sReg k

/-- 41_sbox.md R72: INVSUBBYTES substitutes every byte of `S` through the inverse S-box and changes nothing
else; after SUBBYTES it restores `S`. -/
def Obligations.InvsubbytesSubstitutesEveryByte : Prop :=
  decode 0x00000008 = .ok .invsubbytes ∧ invSbox 0x63 = 0x00 ∧ invSbox 0x00 = 0x52 ∧
  (∀ s : State, ∃ b : Block, exec .invsubbytes s = .next { s with sReg := b } ∧
    b.l0 = invsub8 s.sReg.l0 ∧ b.l1 = invsub8 s.sReg.l1 ∧
    ∀ k, k < 16 → blockByte b k = invSbox (blockByte s.sReg k)) ∧
  (∀ s : State, ∃ t, exec .subbytes s = .next t ∧ exec .invsubbytes t = .next s)

/-- 42_geometry.md §1, §2: SHIFTROWS rotates row `r` of `S` left by `r`, INVSHIFTROWS right by `r`; byte `k`
comes from the place the permutation lists give; each restores what the other did; nothing else changes.
The two index formulas are the spec's own derivation ("derived: from 00_scope.md rule R12"). -/
def Obligations.ShiftRowsRotatesTheRows : Prop :=
  decode 0x00000009 = .ok .shiftrows ∧ decode 0x0000000A = .ok .invshiftrows ∧
  ∀ s : State, ∃ b b' : Block,
    exec .shiftrows s = .next { s with sReg := b } ∧
    exec .invshiftrows s = .next { s with sReg := b' } ∧
    (∀ r c, r < 4 → c < 4 →
      blockByte b (r + 4 * c) = blockByte s.sReg (r + 4 * ((c + r) % 4)) ∧
      blockByte b' (r + 4 * ((c + r) % 4)) = blockByte s.sReg (r + 4 * c)) ∧
    (∀ k, k < 16 →
      blockByte b k =
        blockByte s.sReg ([0, 5, 10, 15, 4, 9, 14, 3, 8, 13, 2, 7, 12, 1, 6, 11].getD k 0) ∧
      blockByte b' k =
        blockByte s.sReg ([0, 13, 10, 7, 4, 1, 14, 11, 8, 5, 2, 15, 12, 9, 6, 3].getD k 0)) ∧
    exec .invshiftrows { s with sReg := b } = .next s ∧
    exec .shiftrows { s with sReg := b' } = .next s

/-- 42_geometry.md §1, §2: MIXCOLUMNS multiplies every column of `S` by the circulant of {02,03,01,01} and
changes nothing else. The circulant arrangement is marked "from general knowledge" there (log 11). -/
def Obligations.MixcolumnsMultipliesTheColumns : Prop :=
  decode 0x0000000B = .ok .mixcolumns ∧
  ∀ s : State, ∃ b : Block, exec .mixcolumns s = .next { s with sReg := b } ∧
    ∀ c, c < 4 → let a := fun r => blockByte s.sReg (r + 4 * c)
      blockByte b (0 + 4 * c) = gmul 0x02 (a 0) ^^^ gmul 0x03 (a 1) ^^^ a 2 ^^^ a 3 ∧
      blockByte b (1 + 4 * c) = a 0 ^^^ gmul 0x02 (a 1) ^^^ gmul 0x03 (a 2) ^^^ a 3 ∧
      blockByte b (2 + 4 * c) = a 0 ^^^ a 1 ^^^ gmul 0x02 (a 2) ^^^ gmul 0x03 (a 3) ∧
      blockByte b (3 + 4 * c) = gmul 0x03 (a 0) ^^^ a 1 ^^^ a 2 ^^^ gmul 0x02 (a 3)

/-- 42_geometry.md §1, §2: INVMIXCOLUMNS multiplies every column of `S` by the circulant of {0E,0B,0D,09} and
changes nothing else; after MIXCOLUMNS it restores `S`. The circulant arrangement is marked "from general
knowledge" there (log 11). -/
def Obligations.InvmixcolumnsMultipliesTheColumns : Prop :=
  decode 0x0000000C = .ok .invmixcolumns ∧
  (∀ s : State, ∃ b : Block, exec .invmixcolumns s = .next { s with sReg := b } ∧
    ∀ c, c < 4 → let a := fun r => blockByte s.sReg (r + 4 * c)
      blockByte b (0 + 4 * c) =
        gmul 0x0E (a 0) ^^^ gmul 0x0B (a 1) ^^^ gmul 0x0D (a 2) ^^^ gmul 0x09 (a 3) ∧
      blockByte b (1 + 4 * c) =
        gmul 0x09 (a 0) ^^^ gmul 0x0E (a 1) ^^^ gmul 0x0B (a 2) ^^^ gmul 0x0D (a 3) ∧
      blockByte b (2 + 4 * c) =
        gmul 0x0D (a 0) ^^^ gmul 0x09 (a 1) ^^^ gmul 0x0E (a 2) ^^^ gmul 0x0B (a 3) ∧
      blockByte b (3 + 4 * c) =
        gmul 0x0B (a 0) ^^^ gmul 0x0D (a 1) ^^^ gmul 0x09 (a 2) ^^^ gmul 0x0E (a 3)) ∧
  (∀ s : State, ∃ t, exec .mixcolumns s = .next t ∧ exec .invmixcolumns t = .next s)

/-- 40_gf_arith.md R66, R61: XTIME doubles every byte of `S`, lane by lane, and changes nothing else. -/
def Obligations.XtimeDoublesEveryByte : Prop :=
  decode 0x0000000D = .ok .xtime ∧
  (∀ a : Byte, xtime a = ((a <<< 1) &&& 0xFF) ^^^ (if a.getLsbD 7 = true then 0x1B else 0x00)) ∧
  ∀ s : State, ∃ b : Block, exec .xtime s = .next { s with sReg := b } ∧
    b.l0 = xtime8 s.sReg.l0 ∧ b.l1 = xtime8 s.sReg.l1 ∧
    ∀ k, k < 16 → blockByte b k = xtime (blockByte s.sReg k)

/-- 44_key_schedule.md §1, §2 (R94, R92): KEYSETUP is refused with BAD_KEYLEN for KLEN = 3; for the other codes
it writes the round-key file from the expanded words `w`, zero above `NR`, sets `NR` and `KEY_VALID`, and
changes nothing else. `w` and the round constant `rc` satisfy the expansion's recurrence. That RotWord is the
rotation right by 8 is R89's reading among two (90_conflicts.md C3), and the start value of `rc` is marked "from
general knowledge" in R91; both are log 11. -/
def Obligations.KeysetupExpandsTheKey : Prop :=
  decode 0x00000001 = .ok (.keysetup 0) ∧ decode 0x00000101 = .ok (.keysetup 1) ∧
  decode 0x00000201 = .ok (.keysetup 2) ∧ decode 0x00000301 = .ok (.keysetup 3) ∧
  (∀ s : State, exec (.keysetup 3) s = .next (recorded 2 s)) ∧
  ∀ (s : State) (klen nk nr : Nat), (klen, nk, nr) ∈ [(0, 4, 10), (1, 6, 12), (2, 8, 14)] →
    ∃ (rk : Vector Block 15) (w rc : Nat → Word),
      exec (.keysetup klen) s =
        .next { s with rk := rk, nr := BitVec.ofNat 4 nr, keyValid := true } ∧
      (∀ (j : Nat) (_ : j < 8), j < nk → w j = s.key[j]) ∧
      rc nk = 0x00000001 ∧
      (∀ i, nk ≤ i → i < 4 * (nr + 1) →
        (i % nk = 0 → w i = w (i - nk) ^^^ (sub4 ((w (i - 1)).rotateRight 8) ^^^ rc i) ∧
          rc (i + 1) = xtime4 (rc i)) ∧
        (i % nk ≠ 0 → rc (i + 1) = rc i ∧
          (nk = 8 ∧ i % nk = 4 → w i = w (i - nk) ^^^ sub4 (w (i - 1))) ∧
          (¬(nk = 8 ∧ i % nk = 4) → w i = w (i - nk) ^^^ w (i - 1)))) ∧
      (∀ (i : Nat) (_ : i < 15),
        (i ≤ nr → rk[i] = ⟨w (4 * i + 1) ++ w (4 * i), w (4 * i + 3) ++ w (4 * i + 2)⟩) ∧
        (nr < i → rk[i] = ⟨0, 0⟩))

/-- 44_key_schedule.md §2: the schedule is a function of the `Nk` key words and `KLEN`: two states that agree
on those key words get the same `RK`, `NR` and `KEY_VALID`. -/
def Obligations.ScheduleDependsOnTheKeyWordsOnly : Prop :=
  ∀ (s t : State) (klen nk nr : Nat), (klen, nk, nr) ∈ [(0, 4, 10), (1, 6, 12), (2, 8, 14)] →
    (∀ (j : Nat) (_ : j < 8), j < nk → s.key[j] = t.key[j]) →
    ∃ s' t', exec (.keysetup klen) s = .next s' ∧ exec (.keysetup klen) t = .next t' ∧
      s'.rk = t'.rk ∧ s'.nr = t'.nr ∧ s'.keyValid = t'.keyValid

/-- 45_driver.md R98, R96: ENCRYPT is refused with NO_KEY without a schedule; otherwise `tr` is the state after
each round key, and the result goes to `S` and `DOUT` and nothing else changes. `NR` is 1 to 14 in every
state with a schedule that meets the invariant. -/
def Obligations.EncryptRunsTheRounds : Prop :=
  decode 0x00000002 = .ok .encrypt ∧
  (∀ s : State, s.keyValid = false → exec .encrypt s = .next (recorded 3 s)) ∧
  ∀ s : State, s.keyValid = true → ∀ (_ : 1 ≤ s.nr.toNat) (_ : s.nr.toNat ≤ 14),
    ∃ (tr : Nat → Block) (c : Block),
      tr 0 = addRoundKey ⟨s.din[1] ++ s.din[0], s.din[3] ++ s.din[2]⟩ s.rk[0] ∧
      (∀ (i : Nat) (_ : i < 15), 1 ≤ i → i < s.nr.toNat →
        tr i = addRoundKey (mixColumns (shiftRows (subBytes (tr (i - 1))))) s.rk[i]) ∧
      c = addRoundKey (shiftRows (subBytes (tr (s.nr.toNat - 1)))) (s.rk[s.nr.toNat]'(by omega)) ∧
      exec .encrypt s = .next { s with
        sReg := c
        dout := #v[c.l0.extractLsb' 0 32, c.l0.extractLsb' 32 32,
          c.l1.extractLsb' 0 32, c.l1.extractLsb' 32 32] }

/-- 45_driver.md R99, R97: DECRYPT is refused with NO_KEY without a schedule; otherwise `tr` is the state after
each loop step from `NR` down, and the result goes to `S` and `DOUT` and nothing else changes. `NR` is 1 to
14 in every state with a schedule that meets the invariant. -/
def Obligations.DecryptRunsTheRounds : Prop :=
  decode 0x00000003 = .ok .decrypt ∧
  (∀ s : State, s.keyValid = false → exec .decrypt s = .next (recorded 3 s)) ∧
  (∀ s : State, s.keyValid = true → ∀ (_ : 1 ≤ s.nr.toNat) (_ : s.nr.toNat ≤ 14),
    ∃ (tr : Nat → Block) (p : Block),
      tr s.nr.toNat =
        addRoundKey ⟨s.din[1] ++ s.din[0], s.din[3] ++ s.din[2]⟩ (s.rk[s.nr.toNat]'(by omega)) ∧
      (∀ (i : Nat) (_ : i < 15), 1 ≤ i → i < s.nr.toNat →
        tr i = invMixColumns (addRoundKey (invSubBytes (invShiftRows (tr (i + 1)))) s.rk[i])) ∧
      p = addRoundKey (invSubBytes (invShiftRows (tr 1))) s.rk[0] ∧
      exec .decrypt s = .next { s with
        sReg := p
        dout := #v[p.l0.extractLsb' 0 32, p.l0.extractLsb' 32 32,
          p.l1.extractLsb' 0 32, p.l1.extractLsb' 32 32] }) ∧
  (∀ s : State, s.keyValid = true → ∃ t u,
    exec .encrypt s = .next t ∧ exec .decrypt { t with din := t.dout } = .next u ∧ u.dout = s.din)

/-! ## Laws of the data path -/

/-- 45_driver.md §2, law (a): decryption inverts encryption, for every round-key file and round count. -/
def Obligations.DecryptionInvertsEncryption : Prop :=
  ∀ (p : Block) (rk : Vector Block 15) (nr : Nat), invCipher (cipher p rk nr) rk nr = p

/-- 40_gf_arith.md §1: lane-parallel doubling doubles each byte lane, and is a bijection. -/
def Obligations.LaneDoublingIsBytewise : Prop :=
  (∀ (x : Word) (k : Nat), k < 4 → wordByte (xtime4 x) k = xtime (wordByte x k)) ∧
  (∀ (x : Lane) (k : Nat), k < 8 → laneByte (xtime8 x) k = xtime (laneByte x k)) ∧
  Function.Bijective xtime4 ∧ Function.Bijective xtime8

/-- 40_gf_arith.md §1: the constant multiples the column mixers use are field products. -/
def Obligations.ConstantMultiplesAreFieldProducts : Prop :=
  ∀ a : Byte, gmul 0x01 a = a ∧ gmul 0x02 a = mul02 a ∧ gmul 0x03 a = mul03 a ∧
    gmul 0x09 a = mul09 a ∧ gmul 0x0B a = mul0B a ∧ gmul 0x0D a = mul0D a ∧ gmul 0x0E a = mul0E a

/-- 40_gf_arith.md §1, the laws of the field product: commutative, associative, distributive over XOR, with 0
and 1, and a unique inverse of every nonzero byte. -/
def Obligations.FieldProductLaws : Prop :=
  (∀ a b : Byte, gmul a b = gmul b a) ∧
  (∀ a b c : Byte, gmul (gmul a b) c = gmul a (gmul b c)) ∧
  (∀ a b c : Byte, gmul a (b ^^^ c) = gmul a b ^^^ gmul a c) ∧
  (∀ a : Byte, gmul a 0 = 0 ∧ gmul a 1 = a) ∧
  (∀ a : Byte, a ≠ 0 → ∃! b, gmul a b = 1)

/-- 41_sbox.md §1: `inv` is the field's inverse with `inv(0) = 0`, both S-boxes are the tables there, and they
invert each other. The tables are marked "from general knowledge" there (log 11). -/
def Obligations.SboxesAreTheTablesAndInverse : Prop :=
  (∀ x : Byte, x ≠ 0 → gmul x (ginv x) = 1) ∧ ginv 0 = 0 ∧
  (∀ x : Byte, sboxTable[x.toNat]? = some (sbox x)) ∧
  (∀ y : Byte, invSboxTable[y.toNat]? = some (invSbox y)) ∧
  (∀ x : Byte, invSbox (sbox x) = x ∧ sbox (invSbox x) = x)

/-- 42_geometry.md §1: the lane forms of the column mixers compute the matrix forms. -/
def Obligations.LaneFormsComputeTheColumnProducts : Prop :=
  ∀ b : Block, mixColumns b = ⟨mixLane b.l0, mixLane b.l1⟩ ∧
    invMixColumns b = ⟨invMixLane b.l0, invMixLane b.l1⟩

/-- 41_sbox.md §1 and 42_geometry.md §1: each inverse transform undoes its transform, in both orders. -/
def Obligations.InverseTransformsUndoTheirTransforms : Prop :=
  ∀ b : Block, invSubBytes (subBytes b) = b ∧ subBytes (invSubBytes b) = b ∧
    invShiftRows (shiftRows b) = b ∧ shiftRows (invShiftRows b) = b ∧
    invMixColumns (mixColumns b) = b ∧ mixColumns (invMixColumns b) = b

/-- 42_geometry.md §1, the laws: the row rotations commute with the byte substitutions, the column mixers are
linear over XOR, and a column of four equal bytes is unchanged by both mixers. -/
def Obligations.RoundTransformLaws : Prop :=
  (∀ b : Block, shiftRows (subBytes b) = subBytes (shiftRows b) ∧
    invShiftRows (invSubBytes b) = invSubBytes (invShiftRows b)) ∧
  (∀ a b : Block, mixColumns (a.xor b) = (mixColumns a).xor (mixColumns b) ∧
    invMixColumns (a.xor b) = (invMixColumns a).xor (invMixColumns b)) ∧
  (∀ (b : Block) (c : Nat) (x : Byte), c < 4 → (∀ r, r < 4 → blockByte b (r + 4 * c) = x) →
    ∀ r, r < 4 → blockByte (mixColumns b) (r + 4 * c) = x ∧
      blockByte (invMixColumns b) (r + 4 * c) = x)

/-- 44_key_schedule.md §1: the round constants, in order, from 0x00000001 by doubling. The start value is marked
"from general knowledge" there (log 11). -/
def Obligations.RoundConstantsArePowersOfTwo : Prop :=
  (List.range 10).map (fun n => Nat.iterate xtime4 n 0x00000001) =
    [0x01, 0x02, 0x04, 0x08, 0x10, 0x20, 0x40, 0x80, 0x1B, 0x36]
end

