-- ==== Sys2Proof/Laws/State.lean ====
section
/-! SUPPORT. One lemma per field per update of State, so that no later proof unfolds a record update. -/

namespace Sys2Proof.Machine.State

variable (s : State)

@[simp] theorem setSReg_sReg (b : Block) : (s.setSReg b).sReg = b := rfl
@[simp] theorem setSReg_rk (b : Block) : (s.setSReg b).rk = s.rk := rfl
@[simp] theorem setSReg_nr (b : Block) : (s.setSReg b).nr = s.nr := rfl
@[simp] theorem setSReg_keyValid (b : Block) : (s.setSReg b).keyValid = s.keyValid := rfl
@[simp] theorem setSReg_key (b : Block) : (s.setSReg b).key = s.key := rfl
@[simp] theorem setSReg_din (b : Block) : (s.setSReg b).din = s.din := rfl
@[simp] theorem setSReg_dout (b : Block) : (s.setSReg b).dout = s.dout := rfl
@[simp] theorem setSReg_err (b : Block) : (s.setSReg b).err = s.err := rfl
@[simp] theorem setSReg_errcode (b : Block) : (s.setSReg b).errcode = s.errcode := rfl
@[simp] theorem setSReg_pending (b : Block) : (s.setSReg b).pending = s.pending := rfl
@[simp] theorem setSReg_request (b : Block) : (s.setSReg b).request = s.request := rfl
@[simp] theorem setSReg_response (b : Block) : (s.setSReg b).response = s.response := rfl
@[simp] theorem setSReg_inputs (b : Block) : (s.setSReg b).inputs = s.inputs := rfl

@[simp] theorem setSchedule_sReg (rk : Vector Block 15) (nr : BitVec 4) : (s.setSchedule rk nr).sReg = s.sReg := rfl
@[simp] theorem setSchedule_rk (rk : Vector Block 15) (nr : BitVec 4) : (s.setSchedule rk nr).rk = rk := rfl
@[simp] theorem setSchedule_nr (rk : Vector Block 15) (nr : BitVec 4) : (s.setSchedule rk nr).nr = nr := rfl
@[simp] theorem setSchedule_keyValid (rk : Vector Block 15) (nr : BitVec 4) : (s.setSchedule rk nr).keyValid = true := rfl
@[simp] theorem setSchedule_key (rk : Vector Block 15) (nr : BitVec 4) : (s.setSchedule rk nr).key = s.key := rfl
@[simp] theorem setSchedule_din (rk : Vector Block 15) (nr : BitVec 4) : (s.setSchedule rk nr).din = s.din := rfl
@[simp] theorem setSchedule_dout (rk : Vector Block 15) (nr : BitVec 4) : (s.setSchedule rk nr).dout = s.dout := rfl
@[simp] theorem setSchedule_err (rk : Vector Block 15) (nr : BitVec 4) : (s.setSchedule rk nr).err = s.err := rfl
@[simp] theorem setSchedule_errcode (rk : Vector Block 15) (nr : BitVec 4) : (s.setSchedule rk nr).errcode = s.errcode := rfl
@[simp] theorem setSchedule_pending (rk : Vector Block 15) (nr : BitVec 4) : (s.setSchedule rk nr).pending = s.pending := rfl
@[simp] theorem setSchedule_request (rk : Vector Block 15) (nr : BitVec 4) : (s.setSchedule rk nr).request = s.request := rfl
@[simp] theorem setSchedule_response (rk : Vector Block 15) (nr : BitVec 4) : (s.setSchedule rk nr).response = s.response := rfl
@[simp] theorem setSchedule_inputs (rk : Vector Block 15) (nr : BitVec 4) : (s.setSchedule rk nr).inputs = s.inputs := rfl

@[simp] theorem setKey_sReg (j : Fin 8) (v : Word) : (s.setKey j v).sReg = s.sReg := rfl
@[simp] theorem setKey_rk (j : Fin 8) (v : Word) : (s.setKey j v).rk = s.rk := rfl
@[simp] theorem setKey_nr (j : Fin 8) (v : Word) : (s.setKey j v).nr = s.nr := rfl
@[simp] theorem setKey_keyValid (j : Fin 8) (v : Word) : (s.setKey j v).keyValid = s.keyValid := rfl
@[simp] theorem setKey_key (j : Fin 8) (v : Word) : (s.setKey j v).key = s.key.set j.val v j.isLt := rfl
@[simp] theorem setKey_din (j : Fin 8) (v : Word) : (s.setKey j v).din = s.din := rfl
@[simp] theorem setKey_dout (j : Fin 8) (v : Word) : (s.setKey j v).dout = s.dout := rfl
@[simp] theorem setKey_err (j : Fin 8) (v : Word) : (s.setKey j v).err = s.err := rfl
@[simp] theorem setKey_errcode (j : Fin 8) (v : Word) : (s.setKey j v).errcode = s.errcode := rfl
@[simp] theorem setKey_pending (j : Fin 8) (v : Word) : (s.setKey j v).pending = s.pending := rfl
@[simp] theorem setKey_request (j : Fin 8) (v : Word) : (s.setKey j v).request = s.request := rfl
@[simp] theorem setKey_response (j : Fin 8) (v : Word) : (s.setKey j v).response = s.response := rfl
@[simp] theorem setKey_inputs (j : Fin 8) (v : Word) : (s.setKey j v).inputs = s.inputs := rfl

@[simp] theorem setDin_sReg (j : Fin 4) (v : Word) : (s.setDin j v).sReg = s.sReg := rfl
@[simp] theorem setDin_rk (j : Fin 4) (v : Word) : (s.setDin j v).rk = s.rk := rfl
@[simp] theorem setDin_nr (j : Fin 4) (v : Word) : (s.setDin j v).nr = s.nr := rfl
@[simp] theorem setDin_keyValid (j : Fin 4) (v : Word) : (s.setDin j v).keyValid = s.keyValid := rfl
@[simp] theorem setDin_key (j : Fin 4) (v : Word) : (s.setDin j v).key = s.key := rfl
@[simp] theorem setDin_din (j : Fin 4) (v : Word) : (s.setDin j v).din = s.din.set j.val v j.isLt := rfl
@[simp] theorem setDin_dout (j : Fin 4) (v : Word) : (s.setDin j v).dout = s.dout := rfl
@[simp] theorem setDin_err (j : Fin 4) (v : Word) : (s.setDin j v).err = s.err := rfl
@[simp] theorem setDin_errcode (j : Fin 4) (v : Word) : (s.setDin j v).errcode = s.errcode := rfl
@[simp] theorem setDin_pending (j : Fin 4) (v : Word) : (s.setDin j v).pending = s.pending := rfl
@[simp] theorem setDin_request (j : Fin 4) (v : Word) : (s.setDin j v).request = s.request := rfl
@[simp] theorem setDin_response (j : Fin 4) (v : Word) : (s.setDin j v).response = s.response := rfl
@[simp] theorem setDin_inputs (j : Fin 4) (v : Word) : (s.setDin j v).inputs = s.inputs := rfl

@[simp] theorem setDout_sReg (d : Vector Word 4) : (s.setDout d).sReg = s.sReg := rfl
@[simp] theorem setDout_rk (d : Vector Word 4) : (s.setDout d).rk = s.rk := rfl
@[simp] theorem setDout_nr (d : Vector Word 4) : (s.setDout d).nr = s.nr := rfl
@[simp] theorem setDout_keyValid (d : Vector Word 4) : (s.setDout d).keyValid = s.keyValid := rfl
@[simp] theorem setDout_key (d : Vector Word 4) : (s.setDout d).key = s.key := rfl
@[simp] theorem setDout_din (d : Vector Word 4) : (s.setDout d).din = s.din := rfl
@[simp] theorem setDout_dout (d : Vector Word 4) : (s.setDout d).dout = d := rfl
@[simp] theorem setDout_err (d : Vector Word 4) : (s.setDout d).err = s.err := rfl
@[simp] theorem setDout_errcode (d : Vector Word 4) : (s.setDout d).errcode = s.errcode := rfl
@[simp] theorem setDout_pending (d : Vector Word 4) : (s.setDout d).pending = s.pending := rfl
@[simp] theorem setDout_request (d : Vector Word 4) : (s.setDout d).request = s.request := rfl
@[simp] theorem setDout_response (d : Vector Word 4) : (s.setDout d).response = s.response := rfl
@[simp] theorem setDout_inputs (d : Vector Word 4) : (s.setDout d).inputs = s.inputs := rfl

@[simp] theorem setErr_sReg (e : Bool) (c : BitVec 4) : (s.setErr e c).sReg = s.sReg := rfl
@[simp] theorem setErr_rk (e : Bool) (c : BitVec 4) : (s.setErr e c).rk = s.rk := rfl
@[simp] theorem setErr_nr (e : Bool) (c : BitVec 4) : (s.setErr e c).nr = s.nr := rfl
@[simp] theorem setErr_keyValid (e : Bool) (c : BitVec 4) : (s.setErr e c).keyValid = s.keyValid := rfl
@[simp] theorem setErr_key (e : Bool) (c : BitVec 4) : (s.setErr e c).key = s.key := rfl
@[simp] theorem setErr_din (e : Bool) (c : BitVec 4) : (s.setErr e c).din = s.din := rfl
@[simp] theorem setErr_dout (e : Bool) (c : BitVec 4) : (s.setErr e c).dout = s.dout := rfl
@[simp] theorem setErr_err (e : Bool) (c : BitVec 4) : (s.setErr e c).err = e := rfl
@[simp] theorem setErr_errcode (e : Bool) (c : BitVec 4) : (s.setErr e c).errcode = c := rfl
@[simp] theorem setErr_pending (e : Bool) (c : BitVec 4) : (s.setErr e c).pending = s.pending := rfl
@[simp] theorem setErr_request (e : Bool) (c : BitVec 4) : (s.setErr e c).request = s.request := rfl
@[simp] theorem setErr_response (e : Bool) (c : BitVec 4) : (s.setErr e c).response = s.response := rfl
@[simp] theorem setErr_inputs (e : Bool) (c : BitVec 4) : (s.setErr e c).inputs = s.inputs := rfl

@[simp] theorem setPending_sReg (p : Option Word) : (s.setPending p).sReg = s.sReg := rfl
@[simp] theorem setPending_rk (p : Option Word) : (s.setPending p).rk = s.rk := rfl
@[simp] theorem setPending_nr (p : Option Word) : (s.setPending p).nr = s.nr := rfl
@[simp] theorem setPending_keyValid (p : Option Word) : (s.setPending p).keyValid = s.keyValid := rfl
@[simp] theorem setPending_key (p : Option Word) : (s.setPending p).key = s.key := rfl
@[simp] theorem setPending_din (p : Option Word) : (s.setPending p).din = s.din := rfl
@[simp] theorem setPending_dout (p : Option Word) : (s.setPending p).dout = s.dout := rfl
@[simp] theorem setPending_err (p : Option Word) : (s.setPending p).err = s.err := rfl
@[simp] theorem setPending_errcode (p : Option Word) : (s.setPending p).errcode = s.errcode := rfl
@[simp] theorem setPending_pending (p : Option Word) : (s.setPending p).pending = p := rfl
@[simp] theorem setPending_request (p : Option Word) : (s.setPending p).request = s.request := rfl
@[simp] theorem setPending_response (p : Option Word) : (s.setPending p).response = s.response := rfl
@[simp] theorem setPending_inputs (p : Option Word) : (s.setPending p).inputs = s.inputs := rfl

@[simp] theorem setRequest_sReg (r : Option Access) : (s.setRequest r).sReg = s.sReg := rfl
@[simp] theorem setRequest_rk (r : Option Access) : (s.setRequest r).rk = s.rk := rfl
@[simp] theorem setRequest_nr (r : Option Access) : (s.setRequest r).nr = s.nr := rfl
@[simp] theorem setRequest_keyValid (r : Option Access) : (s.setRequest r).keyValid = s.keyValid := rfl
@[simp] theorem setRequest_key (r : Option Access) : (s.setRequest r).key = s.key := rfl
@[simp] theorem setRequest_din (r : Option Access) : (s.setRequest r).din = s.din := rfl
@[simp] theorem setRequest_dout (r : Option Access) : (s.setRequest r).dout = s.dout := rfl
@[simp] theorem setRequest_err (r : Option Access) : (s.setRequest r).err = s.err := rfl
@[simp] theorem setRequest_errcode (r : Option Access) : (s.setRequest r).errcode = s.errcode := rfl
@[simp] theorem setRequest_pending (r : Option Access) : (s.setRequest r).pending = s.pending := rfl
@[simp] theorem setRequest_request (r : Option Access) : (s.setRequest r).request = r := rfl
@[simp] theorem setRequest_response (r : Option Access) : (s.setRequest r).response = s.response := rfl
@[simp] theorem setRequest_inputs (r : Option Access) : (s.setRequest r).inputs = s.inputs := rfl

@[simp] theorem setResponse_sReg (r : Option BusResponse) : (s.setResponse r).sReg = s.sReg := rfl
@[simp] theorem setResponse_rk (r : Option BusResponse) : (s.setResponse r).rk = s.rk := rfl
@[simp] theorem setResponse_nr (r : Option BusResponse) : (s.setResponse r).nr = s.nr := rfl
@[simp] theorem setResponse_keyValid (r : Option BusResponse) : (s.setResponse r).keyValid = s.keyValid := rfl
@[simp] theorem setResponse_key (r : Option BusResponse) : (s.setResponse r).key = s.key := rfl
@[simp] theorem setResponse_din (r : Option BusResponse) : (s.setResponse r).din = s.din := rfl
@[simp] theorem setResponse_dout (r : Option BusResponse) : (s.setResponse r).dout = s.dout := rfl
@[simp] theorem setResponse_err (r : Option BusResponse) : (s.setResponse r).err = s.err := rfl
@[simp] theorem setResponse_errcode (r : Option BusResponse) : (s.setResponse r).errcode = s.errcode := rfl
@[simp] theorem setResponse_pending (r : Option BusResponse) : (s.setResponse r).pending = s.pending := rfl
@[simp] theorem setResponse_request (r : Option BusResponse) : (s.setResponse r).request = s.request := rfl
@[simp] theorem setResponse_response (r : Option BusResponse) : (s.setResponse r).response = r := rfl
@[simp] theorem setResponse_inputs (r : Option BusResponse) : (s.setResponse r).inputs = s.inputs := rfl

@[simp] theorem setInputs_sReg (l : List Input) : (s.setInputs l).sReg = s.sReg := rfl
@[simp] theorem setInputs_rk (l : List Input) : (s.setInputs l).rk = s.rk := rfl
@[simp] theorem setInputs_nr (l : List Input) : (s.setInputs l).nr = s.nr := rfl
@[simp] theorem setInputs_keyValid (l : List Input) : (s.setInputs l).keyValid = s.keyValid := rfl
@[simp] theorem setInputs_key (l : List Input) : (s.setInputs l).key = s.key := rfl
@[simp] theorem setInputs_din (l : List Input) : (s.setInputs l).din = s.din := rfl
@[simp] theorem setInputs_dout (l : List Input) : (s.setInputs l).dout = s.dout := rfl
@[simp] theorem setInputs_err (l : List Input) : (s.setInputs l).err = s.err := rfl
@[simp] theorem setInputs_errcode (l : List Input) : (s.setInputs l).errcode = s.errcode := rfl
@[simp] theorem setInputs_pending (l : List Input) : (s.setInputs l).pending = s.pending := rfl
@[simp] theorem setInputs_request (l : List Input) : (s.setInputs l).request = s.request := rfl
@[simp] theorem setInputs_response (l : List Input) : (s.setInputs l).response = s.response := rfl
@[simp] theorem setInputs_inputs (l : List Input) : (s.setInputs l).inputs = l := rfl

end Sys2Proof.Machine.State
end

