-- ==== Sys2Proof/Laws/Ops.lean ====
section
/-! SUPPORT. What each shared operation over State can do, said once: the error action, its return, the
checks, and the frame of a command's meaning. -/

namespace Sys2Proof.Machine

/-- The error action changes nothing but `ERR` and `ERRCODE`, and these only from `ERR` = 0 (R103). -/
theorem raiseErr_cases (c : ErrorCode) (s : State) :
    (s.err = true ∧ raiseErr c s = s) ∨
    (s.err = false ∧ raiseErr c s = s.setErr true (errorNumber c)) := by
  unfold raiseErr
  cases h : s.err <;> simp

/-- A write to `STATUS` clears the error, or changes nothing (R106). -/
theorem writeStatus_cases (v : Word) (s : State) :
    (clearsError v = true ∧ writeStatus v s = s.setErr false 0) ∨
    (clearsError v = false ∧ writeStatus v s = s) := by
  unfold writeStatus
  cases h : clearsError v <;> simp

section RaiseErrFrame

variable (c : ErrorCode) (s : State)

@[simp] theorem raiseErr_sReg : (raiseErr c s).sReg = s.sReg := by unfold raiseErr; split <;> rfl
@[simp] theorem raiseErr_rk : (raiseErr c s).rk = s.rk := by unfold raiseErr; split <;> rfl
@[simp] theorem raiseErr_nr : (raiseErr c s).nr = s.nr := by unfold raiseErr; split <;> rfl
@[simp] theorem raiseErr_keyValid : (raiseErr c s).keyValid = s.keyValid := by
  unfold raiseErr; split <;> rfl
@[simp] theorem raiseErr_key : (raiseErr c s).key = s.key := by unfold raiseErr; split <;> rfl
@[simp] theorem raiseErr_din : (raiseErr c s).din = s.din := by unfold raiseErr; split <;> rfl
@[simp] theorem raiseErr_dout : (raiseErr c s).dout = s.dout := by unfold raiseErr; split <;> rfl
@[simp] theorem raiseErr_pending : (raiseErr c s).pending = s.pending := by
  unfold raiseErr; split <;> rfl
@[simp] theorem raiseErr_request : (raiseErr c s).request = s.request := by
  unfold raiseErr; split <;> rfl
@[simp] theorem raiseErr_response : (raiseErr c s).response = s.response := by
  unfold raiseErr; split <;> rfl
@[simp] theorem raiseErr_inputs : (raiseErr c s).inputs = s.inputs := by
  unfold raiseErr; split <;> rfl
@[simp] theorem raiseErr_err : (raiseErr c s).err = true := by
  rcases raiseErr_cases c s with ⟨h, e⟩ | ⟨_, e⟩ <;> rw [e]
  exacts [h, rfl]

end RaiseErrFrame

/-- The checks read `KEY_VALID` and `NR` only: "the checks read only public values" (R104). -/
theorem precheck_congr (i : Instr) {s t : State} (hk : s.keyValid = t.keyValid) (hn : s.nr = t.nr) :
    precheck i s = precheck i t := by
  cases i <;> simp [precheck, hk, hn]

/-- A command's meaning answers a next state, in one of two ways (R101). -/
theorem runChecked_cases (i : Instr) (effect : State → State) (s : State) :
    (∃ e, precheck i s = some e ∧ runChecked i effect s = .next (raiseErr e s)) ∨
    (precheck i s = none ∧ runChecked i effect s = .next (effect s)) := by
  unfold runChecked
  cases h : precheck i s <;> simp

theorem runChecked_of_none {i : Instr} {s : State} (h : precheck i s = none) (effect : State → State) :
    runChecked i effect s = .next (effect s) := by simp [runChecked, h]

theorem runChecked_of_some {i : Instr} {s : State} {e : ErrorCode} (h : precheck i s = some e)
    (effect : State → State) : runChecked i effect s = .next (raiseErr e s) := by
  simp [runChecked, h]

@[simp] theorem retire_next (t : State) : retire (.next t) = .next (t.setPending none) := rfl

/-- Every command that passes its checks is busy for at least one cycle (R126). -/
theorem busyCycles_pos (i : Instr) (nr : Nat) : 1 ≤ busyCycles i nr := by
  cases i <;> simp [busyCycles, Config.latPrim, Config.latKeysetup, Config.latEncrypt,
    Config.latDecrypt]

end Sys2Proof.Machine
end

