-- ==== Sys2Proof/Laws/Exec.lean ====
section
/-! SUPPORT. What `exec` can do, said once: it answers a next state for every command, and there are only
these ways. -/

namespace Sys2Proof.Machine

/-- The "at completion" pseudocode of each command, as a function of the state. -/
def commandEffect (i : Instr) (s : State) : State :=
  match i with
  | .nop => nopEffect s
  | .keysetup klen => keysetupEffect klen s
  | .encrypt => encryptEffect s
  | .decrypt => decryptEffect s
  | .load => loadEffect s
  | .store => storeEffect s
  | .addrk ridx => addrkEffect ridx s
  | .subbytes => subbytesEffect s
  | .invsubbytes => invsubbytesEffect s
  | .shiftrows => shiftrowsEffect s
  | .invshiftrows => invshiftrowsEffect s
  | .mixcolumns => mixcolumnsEffect s
  | .invmixcolumns => invmixcolumnsEffect s
  | .xtime => xtimeEffect s

/-- Every command is its checks and its effect. -/
theorem exec_eq (i : Instr) (s : State) : exec i s = runChecked i (commandEffect i) s := by
  cases i <;> rfl

/-- The ways a command's effect can change the state: nothing, the state register, the output block,
both, or the schedule. -/
inductive Effect (s : State) : State → Prop where
  | nothing : Effect s s
  | block (b : Block) : Effect s (s.setSReg b)
  | output (d : Vector Word 4) : Effect s (s.setDout d)
  | both (b : Block) : Effect s (deliver b s)
  | schedule (klen nk nr : Nat) (h : keyParams klen = some (nk, nr)) :
      Effect s (installSchedule nk nr s)

theorem effect_commandEffect (i : Instr) (s : State) : Effect s (commandEffect i s) := by
  cases i with
  | nop => exact .nothing
  | keysetup klen =>
    cases hk : keyParams klen with
    | none => simpa only [commandEffect, keysetupEffect, hk] using Effect.nothing
    | some p => simpa only [commandEffect, keysetupEffect, hk] using Effect.schedule klen p.1 p.2 hk
  | encrypt => exact .both _
  | decrypt => exact .both _
  | store => exact .output _
  | load | addrk _ | subbytes | invsubbytes | shiftrows | invshiftrows | mixcolumns
  | invmixcolumns | xtime => exact .block _

/-- Only KEYSETUP changes the schedule (10_state.md R18 to R20). -/
theorem commandEffect_schedule (i : Instr) (s : State) :
    (∃ klen, i = .keysetup klen) ∨
    ((commandEffect i s).rk = s.rk ∧ (commandEffect i s).nr = s.nr ∧
      (commandEffect i s).keyValid = s.keyValid) := by
  cases i with
  | keysetup klen => exact .inl ⟨klen, rfl⟩
  | nop | encrypt | decrypt | load | store | addrk _ | subbytes | invsubbytes | shiftrows
  | invshiftrows | mixcolumns | invmixcolumns | xtime => exact .inr ⟨rfl, rfl, rfl⟩

/-- The inversion lemma of `exec`: it always answers a next state, by a failed check and the error
action, or by the command's effect. -/
theorem exec_cases (i : Instr) (s : State) :
    (∃ e, precheck i s = some e ∧ exec i s = .next (raiseErr e s)) ∨
    (precheck i s = none ∧ exec i s = .next (commandEffect i s)) := by
  simpa only [exec_eq] using runChecked_cases i (commandEffect i) s

/-- An effect leaves the key and input registers, the errors and the bus port alone. -/
theorem Effect.frame {s t : State} (h : Effect s t) :
    t.key = s.key ∧ t.din = s.din ∧ t.err = s.err ∧ t.errcode = s.errcode ∧
    t.pending = s.pending ∧ t.request = s.request ∧ t.response = s.response ∧
    t.inputs = s.inputs := by
  cases h <;> exact ⟨rfl, rfl, rfl, rfl, rfl, rfl, rfl, rfl⟩

end Sys2Proof.Machine
end

