-- ==== Sys2Proof/Laws/Step.lean ====
section
/-! SUPPORT. What one step can do, said once: the move that is next, and what each move does. -/

namespace Sys2Proof.Machine

/-- With no new access presented, the core moves, or the held access is performed, or nothing does. -/
theorem moveWithoutAccess_cases (s : State) :
    (∃ v, s.pending = some v ∧ moveWithoutAccess s = .core s) ∨
    (∃ a, s.pending = none ∧ s.request = some a ∧
      moveWithoutAccess s = .perform a (s.setRequest none)) ∨
    (s.pending = none ∧ s.request = none ∧ moveWithoutAccess s = .wait s) := by
  unfold moveWithoutAccess
  cases hp : s.pending <;> cases hr : s.request <;> simp

theorem step_of_reset {s : State} {rest : List Input} (h : s.inputs = .reset :: rest) :
    step s = .next (State.reset.setInputs rest) := by
  simp [step, nextMove, h, assertReset]

/-- The core step: the meaning of the pending command, then `BUSY` <- 0 (R116). -/
theorem coreStep_of_decode {s : State} {v : Word} {i : Instr} (hp : s.pending = some v)
    (hd : decode v = .ok i) : coreStep s = retire (exec i s) := by
  simp [coreStep, hp, hd]

/-- The core step always completes: it answers a next state with no command pending, and leaves the
bus port and the inputs alone. -/
theorem coreStep_completes (s : State) : ∃ t, coreStep s = .next t ∧ t.pending = none ∧
    t.request = s.request ∧ t.response = s.response ∧ t.inputs = s.inputs := by
  unfold coreStep
  split
  · exact ⟨s, rfl, ‹_›, rfl, rfl, rfl⟩
  · split
    · next i _ =>
      rcases exec_cases i s with ⟨e, -, h⟩ | ⟨-, h⟩
      · exact ⟨_, by rw [h, retire_next], by simp⟩
      · obtain ⟨-, -, -, -, -, h1, h2, h3⟩ := (effect_commandEffect i s).frame
        exact ⟨_, by rw [h, retire_next], by simp [h1, h2, h3]⟩
    · exact ⟨_, retire_next _, by simp⟩

/-- Issuing a command records an error, or makes the command pending (R55). -/
theorem issue_cases (v : Word) (s : State) :
    (∃ e, issue v s = raiseErr e s) ∨
    (∃ i, decode v = .ok i ∧ precheck i s = none ∧ issue v s = s.setPending (some v)) := by
  unfold issue
  split
  · exact .inl ⟨_, rfl⟩
  · next i hd =>
    split
    · exact .inl ⟨_, rfl⟩
    · exact .inr ⟨i, hd, ‹_›, rfl⟩

/-- An access is a bus error exactly when it names no register, and otherwise answers a next state
(R34). -/
theorem performAccess_cases (a : Access) (s : State) :
    (accessReg a = none ∧ performAccess a s = .fault (.busError (errorResponse a))) ∨
    (∃ r, accessReg a = some r ∧ a.write = true ∧
      performAccess a s = .next ((writeReg r a.wdata s).setResponse (some .written))) ∨
    (∃ r, accessReg a = some r ∧ a.write = false ∧
      performAccess a s = .next (s.setResponse (some (.read (readReg r s))))) := by
  unfold performAccess
  cases hr : accessReg a <;> cases hw : a.write <;> simp

end Sys2Proof.Machine
end

