-- ==== Sys2Proof/Laws/Bus.lean ====
section
/-! SUPPORT. The register window: which accesses are legal, which register each offset names, and what one
step does with an access (20_memory.md R32, R34, R42). -/

namespace Sys2Proof.Machine

theorem regAt_isSome_iff : ∀ o : BitVec 8, (regAt o).isSome = true ↔
    (o.toNat % 4 = 0 ∧ o.toNat < 0x50 ∧ o.toNat ≠ 0x08 ∧ o.toNat ≠ 0x0C) := by decide

theorem regAt_eq_status_iff : ∀ o : BitVec 8, regAt o = some .status ↔ o = 0x04 := by decide

/-- An access names no register exactly when it is not legal (R34). -/
theorem accessReg_eq_none_iff (a : Access) : accessReg a = none ↔ ¬ LegalAccess a := by
  unfold accessReg LegalAccess
  rw [← regAt_isSome_iff]
  by_cases h : a.byteEnable = 0xF <;> simp [h]

theorem accessReg_eq_status_iff (a : Access) : accessReg a = some .status ↔ StatusAccess a := by
  unfold accessReg StatusAccess
  by_cases h : a.byteEnable = 0xF <;> simp [h, regAt_eq_status_iff]

theorem StatusAccess.legal {a : Access} (h : StatusAccess a) : LegalAccess a := by
  obtain ⟨hb, ho⟩ := h
  exact ⟨hb, by rw [ho]; decide⟩

section Offsets

variable (w : Bool) (d : Word)

/-- With all byte enables set, the offset alone names the register. -/
theorem accessReg_eq_regAt (o : BitVec 8) : accessReg ⟨w, o, 15#4, d⟩ = regAt o := by
  simp [accessReg]

@[simp] theorem accessReg_ctrl : accessReg ⟨w, 0#8, 15#4, d⟩ = some .ctrl := by
  rw [accessReg_eq_regAt]; decide

@[simp] theorem accessReg_status : accessReg ⟨w, 4#8, 15#4, d⟩ = some .status := by
  rw [accessReg_eq_regAt]; decide

theorem accessReg_key {j : Nat} (h : j < 8) :
    accessReg ⟨w, BitVec.ofNat 8 (0x10 + 4 * j), 15#4, d⟩ = some (.key ⟨j, h⟩) := by
  rw [accessReg_eq_regAt]
  revert j; decide

theorem accessReg_din {j : Nat} (h : j < 4) :
    accessReg ⟨w, BitVec.ofNat 8 (0x30 + 4 * j), 15#4, d⟩ = some (.din ⟨j, h⟩) := by
  rw [accessReg_eq_regAt]
  revert j; decide

theorem accessReg_dout {j : Nat} (h : j < 4) :
    accessReg ⟨w, BitVec.ofNat 8 (0x40 + 4 * j), 15#4, d⟩ = some (.dout ⟨j, h⟩) := by
  rw [accessReg_eq_regAt]
  revert j; decide

end Offsets

/-- The error action is the one R103 writes out. -/
theorem raiseErr_eq_recorded (e : ErrorCode) (s : State) :
    raiseErr e s = recorded (errorNumber e) s := by
  unfold raiseErr recorded
  split <;> rfl

/-- The core step is the meaning of the pending command's word, completed. -/
theorem coreStep_runs {s : State} {v : Word} {i : Instr} (hv : s.pending = some v)
    (hd : decode v = .ok i) : ∃ t, coreStep s = .next t ∧ Completes (exec i s) t := by
  rw [coreStep_of_decode hv hd]
  rcases exec_cases i s with ⟨e, -, h⟩ | ⟨-, h⟩
  · exact ⟨_, congrArg retire h, _, h, rfl⟩
  · exact ⟨_, congrArg retire h, _, h, rfl⟩

/-- An access is held exactly while a command is pending and it is no legal access to `STATUS` (R42). -/
theorem isHeld_iff (s : State) (a : Access) :
    isHeld s a = true ↔ s.pending ≠ none ∧ ¬ StatusAccess a := by
  rw [← accessReg_eq_status_iff]
  simp [isHeld, busy, Option.isSome_iff_ne_none]

/-- A presented access that is not held is performed. -/
theorem step_performs {s : State} {a : Access} {rest : List Input} (h : Presents s a rest)
    (hf : s.pending = none ∨ StatusAccess a) :
    step s = performAccess a ((s.setInputs rest).setResponse none) := by
  have hh : isHeld s a = false := by
    rw [Bool.eq_false_iff, Ne, isHeld_iff]
    tauto
  simp [step, nextMove, h.1, h.2, hh]

/-- A presented access that must wait is held. -/
theorem step_holds {s : State} {a : Access} {rest : List Input} (h : Presents s a rest)
    (hp : s.pending ≠ none) (hs : ¬ StatusAccess a) :
    step s = .next (((s.setRequest (some a)).setInputs rest).setResponse none) := by
  have hh : isHeld s a = true := (isHeld_iff s a).2 ⟨hp, hs⟩
  simp [step, nextMove, h.1, h.2, hh]

/-- With the turn given to it, a pending command completes. -/
theorem step_coreTurn {s : State} {rest : List Input} (h : s.inputs = .coreTurn :: rest)
    (hp : s.pending ≠ none) : step s = coreStep ((s.setInputs rest).setResponse none) := by
  obtain ⟨v, hv⟩ := Option.ne_none_iff_exists'.1 hp
  simp [step, nextMove, moveWithoutAccess, h, hv]

/-- With nothing more to come, a pending command completes. -/
theorem step_quiet {s : State} (h : s.inputs = []) (hp : s.pending ≠ none) :
    step s = coreStep (s.setResponse none) := by
  obtain ⟨v, hv⟩ := Option.ne_none_iff_exists'.1 hp
  simp [step, nextMove, moveWithoutAccess, h, hv]

/-- While an access is held, the pending command completes before any other access. -/
theorem step_lifts {s : State} {a b : Access} {rest : List Input} (hr : s.request = some a)
    (hs : ¬ StatusAccess a) (h : s.inputs = .access b :: rest) (hp : s.pending ≠ none) :
    step s = coreStep (s.setResponse none) := by
  have hh : isHeld s a = true := (isHeld_iff s a).2 ⟨hp, hs⟩
  simp [step, nextMove, h, hr, hh]

/-- The held access is performed once nothing is pending, unless reset drops it. -/
theorem step_performs_held {s : State} {a : Access} (hr : s.request = some a)
    (hp : s.pending = none) (hn : s.inputs.head? ≠ some .reset) :
    ∃ rest, (rest = s.inputs ∨ s.inputs = .coreTurn :: rest) ∧
      step s = performAccess a (((s.setRequest none).setInputs rest).setResponse none) := by
  cases hi : s.inputs with
  | nil => exact ⟨[], .inl rfl, by simp [step, nextMove, moveWithoutAccess, hi, hr, hp,
      State.setInputs, State.setResponse, State.setRequest]⟩
  | cons x rest =>
    cases x with
    | reset => simp [hi] at hn
    | coreTurn =>
      exact ⟨rest, .inr rfl, by simp [step, nextMove, moveWithoutAccess, hi, hr, hp,
        State.setInputs, State.setResponse, State.setRequest]⟩
    | access b =>
      have hh : isHeld s a = false := by simp [isHeld, busy, hp]
      exact ⟨_, .inl rfl, by simp [step, nextMove, hi, hr, hh,
        State.setInputs, State.setResponse, State.setRequest]⟩

/-- A write leaves the bus port and the inputs alone. -/
theorem writeReg_frame (r : Reg) (v : Word) (s : State) :
    (writeReg r v s).request = s.request ∧ (writeReg r v s).response = s.response ∧
    (writeReg r v s).inputs = s.inputs := by
  cases r with
  | ctrl => rcases issue_cases v s with ⟨e, h⟩ | ⟨i, -, -, h⟩ <;> simp [writeReg, h]
  | status => rcases writeStatus_cases v s with ⟨-, h⟩ | ⟨-, h⟩ <;> simp [writeReg, h]
  | key | din | dout => simp [writeReg]

/-- A legal access to `STATUS` is performed, and changes nothing but the error and the response (R36). -/
theorem performAccess_status {a : Access} (h : StatusAccess a) (s : State) :
    ∃ t, performAccess a s = .next t ∧
      t = { s with err := t.err, errcode := t.errcode, response := t.response } := by
  have hr := (accessReg_eq_status_iff a).2 h
  rcases performAccess_cases a s with ⟨hn, -⟩ | ⟨r, hs, -, e⟩ | ⟨r, -, -, e⟩
  · simp [hr] at hn
  · obtain rfl : .status = r := Option.some.inj (hr.symm.trans hs)
    refine ⟨_, e, ?_⟩
    rcases writeStatus_cases a.wdata s with ⟨-, hw⟩ | ⟨-, hw⟩ <;> simp only [writeReg, hw] <;> rfl
  · exact ⟨_, e, rfl⟩

/-- A step that is not a reset, in its three ways. -/
def StepWay (s : State) : Prop :=
  (∃ l, s.pending ≠ none ∧ (l = s.inputs ∨ s.inputs = .coreTurn :: l) ∧
    step s = coreStep ((s.setInputs l).setResponse none)) ∨
  (∃ a l, (s.pending = none ∨ StatusAccess a) ∧
    (s.request = some a ∧ (l = s.inputs ∨ s.inputs = .coreTurn :: l) ∨ Presents s a l) ∧
    step s = performAccess a (((s.setRequest none).setInputs l).setResponse none)) ∨
  (∃ r l, (r = s.request ∧ s.pending = none ∨
      ∃ a, r = some a ∧ ¬ StatusAccess a ∧ s.pending ≠ none ∧ Presents s a l) ∧
    step s = .next (((s.setRequest r).setInputs l).setResponse none))

theorem stepWay_of_moveWithoutAccess {s : State} {l : List Input}
    (hl : l = s.inputs ∨ s.inputs = .coreTurn :: l)
    (hm : nextMove s = moveWithoutAccess ((s.setInputs l).setResponse none)) : StepWay s := by
  rcases moveWithoutAccess_cases ((s.setInputs l).setResponse none) with
    ⟨v, hv, h⟩ | ⟨a, hp, hr, h⟩ | ⟨hp, hr, h⟩
  · exact .inl ⟨l, by rw [show s.pending = some v from hv]; simp, hl, by rw [step, hm, h]⟩
  · exact .inr (.inl ⟨a, l, .inl hp, .inl ⟨hr, hl⟩, by rw [step, hm, h]; rfl⟩)
  · exact .inr (.inr ⟨s.request, l, .inl ⟨rfl, hp⟩, by rw [step, hm, h]; rfl⟩)

/-- The inversion lemma of `step`: a reset, the core step, an access performed (presented or held), or an
access taken into the hold or nothing to do. -/
theorem step_cases (s : State) :
    (∃ rest, s.inputs = .reset :: rest ∧ step s = .next (State.reset.setInputs rest)) ∨
    (s.inputs.head? ≠ some .reset ∧ StepWay s) := by
  have hsame : s.setInputs s.inputs = s := rfl
  cases hi : s.inputs with
  | nil =>
    refine .inr ⟨by simp, stepWay_of_moveWithoutAccess (.inl rfl) ?_⟩
    simp only [nextMove, hi]
    rw [← hi, hsame]
  | cons x rest =>
    cases x with
    | reset => exact .inl ⟨rest, rfl, step_of_reset hi⟩
    | coreTurn =>
      exact .inr ⟨by simp, stepWay_of_moveWithoutAccess (.inr hi) (by simp only [nextMove, hi])⟩
    | access b =>
      refine .inr ⟨by simp, ?_⟩
      cases hr : s.request with
      | none =>
        have hnone : s.setRequest none = s := by rw [← hr]; rfl
        by_cases h : s.pending = none ∨ StatusAccess b
        · exact .inr (.inl ⟨b, rest, h, .inr ⟨hr, hi⟩, by rw [step_performs ⟨hr, hi⟩ h, hnone]⟩)
        · rw [not_or] at h
          exact .inr (.inr ⟨some b, rest, .inr ⟨b, rfl, h.2, h.1, hr, hi⟩,
            step_holds ⟨hr, hi⟩ h.1 h.2⟩)
      | some a =>
        by_cases h : isHeld s a = true
        · obtain ⟨hp, hs⟩ := (isHeld_iff s a).1 h
          exact .inl ⟨s.inputs, hp, .inl rfl, by rw [step_lifts hr hs hi hp, hsame]⟩
        · refine .inr (.inl ⟨a, s.inputs, ?_, .inl ⟨hr, .inl rfl⟩, ?_⟩)
          · rw [isHeld_iff] at h
            tauto
          · simp only [step, nextMove, hi, hr, h]
            rw [← hi]
            rfl

end Sys2Proof.Machine
end

