-- ==== Sys2Proof/Laws/Bytes.lean ====
section
/-! SUPPORT. Packing and unpacking are inverse to each other, and values with equal bytes are equal
(00_scope.md R9, R10, R12). -/

namespace Sys2Proof.Machine

@[simp] theorem wordByte_packWord (f : Nat → Byte) {k : Nat} (hk : k < 4) :
    wordByte (packWord f) k = f k := by
  apply BitVec.eq_of_getLsbD_eq
  intro i hi
  rcases (by omega : k = 0 ∨ k = 1 ∨ k = 2 ∨ k = 3) with rfl | rfl | rfl | rfl <;>
    simp only [wordByte, packWord, BitVec.getLsbD_extractLsb', BitVec.getLsbD_append, hi,
      decide_true, Bool.true_and]
  all_goals (repeat (rw [if_neg (by omega)]))
  all_goals (try rw [if_pos (by omega)])
  all_goals (congr 1; try omega)

@[simp] theorem laneByte_packLane (f : Nat → Byte) {k : Nat} (hk : k < 8) :
    laneByte (packLane f) k = f k := by
  apply BitVec.eq_of_getLsbD_eq
  intro i hi
  rcases (by omega : k = 0 ∨ k = 1 ∨ k = 2 ∨ k = 3 ∨ k = 4 ∨ k = 5 ∨ k = 6 ∨ k = 7) with
    rfl | rfl | rfl | rfl | rfl | rfl | rfl | rfl <;>
    simp only [laneByte, packLane, BitVec.getLsbD_extractLsb', BitVec.getLsbD_append, hi,
      decide_true, Bool.true_and]
  all_goals (repeat (rw [if_neg (by omega)]))
  all_goals (try rw [if_pos (by omega)])
  all_goals (congr 1; try omega)

theorem word_eq_of_bytes {x y : Word} (h : ∀ k, k < 4 → wordByte x k = wordByte y k) : x = y := by
  apply BitVec.eq_of_getLsbD_eq
  intro i hi
  have hb := congrArg (fun b : Byte => b.getLsbD (i % 8)) (h (i / 8) (by omega))
  simpa only [wordByte, BitVec.getLsbD_extractLsb', Nat.mod_lt i (by omega : 8 > 0), decide_true,
    Bool.true_and, Nat.div_add_mod] using hb

theorem lane_eq_of_bytes {x y : Lane} (h : ∀ k, k < 8 → laneByte x k = laneByte y k) : x = y := by
  apply BitVec.eq_of_getLsbD_eq
  intro i hi
  have hb := congrArg (fun b : Byte => b.getLsbD (i % 8)) (h (i / 8) (by omega))
  simpa only [laneByte, BitVec.getLsbD_extractLsb', Nat.mod_lt i (by omega : 8 > 0), decide_true,
    Bool.true_and, Nat.div_add_mod] using hb

@[simp] theorem blockByte_packBlock (f : Nat → Byte) {k : Nat} (hk : k < 16) :
    blockByte (packBlock f) k = f k := by
  unfold blockByte packBlock
  split
  · exact laneByte_packLane f ‹_›
  · rw [laneByte_packLane _ (by omega), Nat.sub_add_cancel (by omega)]

theorem block_eq_of_bytes {a b : Block} (h : ∀ k, k < 16 → blockByte a k = blockByte b k) :
    a = b := by
  obtain ⟨a0, a1⟩ := a
  obtain ⟨b0, b1⟩ := b
  congr 1
  · exact lane_eq_of_bytes fun k hk => by simpa [blockByte, hk] using h k (by omega)
  · exact lane_eq_of_bytes fun k hk => by simpa [blockByte] using h (k + 8) (by omega)

@[simp] theorem wordByte_mapWordBytes (f : Byte → Byte) (w : Word) {k : Nat} (hk : k < 4) :
    wordByte (mapWordBytes f w) k = f (wordByte w k) := wordByte_packWord _ hk

@[simp] theorem laneByte_mapLaneBytes (f : Byte → Byte) (x : Lane) {k : Nat} (hk : k < 8) :
    laneByte (mapLaneBytes f x) k = f (laneByte x k) := laneByte_packLane _ hk

/-- A block made of mapped lanes has mapped bytes. -/
theorem blockByte_mapLanes (f : Byte → Byte) (b : Block) {k : Nat} (hk : k < 16) :
    blockByte ⟨mapLaneBytes f b.l0, mapLaneBytes f b.l1⟩ k = f (blockByte b k) := by
  unfold blockByte
  split
  · exact laneByte_mapLaneBytes f _ ‹_›
  · exact laneByte_mapLaneBytes f _ (by omega)

@[simp] theorem cell_ofCells (f : Nat → Nat → Byte) {r c : Nat} (hr : r < 4) (hc : c < 4) :
    cell (ofCells f) r c = f r c := by
  unfold cell ofCells
  rw [blockByte_packBlock _ (by omega), show (r + 4 * c) % 4 = r by omega,
    show (r + 4 * c) / 4 = c by omega]

theorem block_eq_of_cells {a b : Block} (h : ∀ r c, r < 4 → c < 4 → cell a r c = cell b r c) :
    a = b := by
  refine block_eq_of_bytes fun k hk => ?_
  have hc := h (k % 4) (k / 4) (by omega) (by omega)
  rwa [cell, cell, show k % 4 + 4 * (k / 4) = k by omega] at hc

@[simp] theorem laneByte_xor (x y : Lane) (k : Nat) :
    laneByte (x ^^^ y) k = laneByte x k ^^^ laneByte y k := by
  simp [laneByte, BitVec.extractLsb'_xor]

@[simp] theorem wordByte_xor (x y : Word) (k : Nat) :
    wordByte (x ^^^ y) k = wordByte x k ^^^ wordByte y k := by
  simp [wordByte, BitVec.extractLsb'_xor]

@[simp] theorem blockByte_xor (a b : Block) (k : Nat) :
    blockByte (a.xor b) k = blockByte a k ^^^ blockByte b k := by
  unfold blockByte Block.xor
  split <;> simp

@[simp] theorem cell_xor (a b : Block) (r c : Nat) : cell (a.xor b) r c = cell a r c ^^^ cell b r c :=
  blockByte_xor a b _

end Sys2Proof.Machine
end

