-- ==== Sys2Proof/Laws/KeySchedule.lean ====
section
/-! SUPPORT. What the expansion loop computes, said once: its words satisfy the recurrence of 44_key_schedule.md
R92, and the words it starts from stay. -/

namespace Sys2Proof.Machine

/-- Word `i` of an expansion. -/
def wordAt (w : List Word) (i : Nat) : Word := w.getD i 0

theorem wordAt_append_left {w v : List Word} {i : Nat} (h : i < w.length) :
    wordAt (w ++ v) i = wordAt w i := by
  simp [wordAt, List.getElem?_append_left h]

theorem wordAt_append_length (w : List Word) (x : Word) : wordAt (w ++ [x]) w.length = x := by
  simp [wordAt]

/-- The words and round constants of the expansion loop (R92): the start words stay, and from index
`ws.length` on each word is the one `Nk` earlier XORed with the transformed previous word. -/
theorem expandLoop_spec (nk : Nat) (hnk : 0 < nk) (n : Nat) (ws : List Word) (rc : Word)
    (hlen : nk ≤ ws.length) :
    ∃ rcs : Nat → Word, rcs ws.length = rc ∧ (expandLoop nk n ws rc).length = ws.length + n ∧
      (∀ j, j < ws.length → wordAt (expandLoop nk n ws rc) j = wordAt ws j) ∧
      (∀ i, ws.length ≤ i → i < ws.length + n →
        rcs (i + 1) = nextRc nk i (rcs i) ∧
        wordAt (expandLoop nk n ws rc) i = wordAt (expandLoop nk n ws rc) (i - nk) ^^^
          scheduleTerm nk i (wordAt (expandLoop nk n ws rc) (i - 1)) (rcs i)) := by
  induction n generalizing ws rc with
  | zero => exact ⟨fun _ => rc, rfl, rfl, fun _ _ => rfl, fun i h1 h2 => by omega⟩
  | succ n ih =>
    let x := wordAt ws (ws.length - nk) ^^^
      scheduleTerm nk ws.length (wordAt ws (ws.length - 1)) rc
    have hx : (ws ++ [x]).length = ws.length + 1 := by simp
    obtain ⟨rcs, h0, h1, h2, h3⟩ := ih (ws ++ [x]) (nextRc nk ws.length rc) (by omega)
    have hloop : expandLoop nk (n + 1) ws rc = expandLoop nk n (ws ++ [x]) (nextRc nk ws.length rc) :=
      rfl
    rw [hx] at h0 h1 h2 h3
    rw [hloop]
    refine ⟨fun i => if i = ws.length then rc else rcs i, if_pos rfl, by omega, fun j hj => ?_,
      fun i hi1 hi2 => ?_⟩
    · rw [h2 j (by omega), wordAt_append_left hj]
    · by_cases hi : i = ws.length
      · subst hi
        refine ⟨by simpa using h0, ?_⟩
        rw [h2 _ (by omega), h2 _ (by omega), h2 _ (by omega), wordAt_append_length,
          wordAt_append_left (by omega), wordAt_append_left (by omega)]
        simp [x]
      · have hr := h3 i (by omega) (by omega)
        simpa only [if_neg hi, if_neg (show i + 1 ≠ ws.length by omega)] using hr

/-- Round key `i` of the file KEYSETUP writes (R93, R94). -/
theorem scheduleFile_get (key : List Word) (nk nr : Nat) {i : Nat} (h : i < 15) :
    (scheduleFile key nk nr)[i] =
      if i ≤ nr then roundKeyOfWords (keyExpansion key nk nr) i else Block.zero := by
  have hl : (scheduleFile key nk nr).toList = (List.range 15).map fun i =>
      if i ≤ nr then roundKeyOfWords (keyExpansion key nk nr) i else Block.zero := rfl
  rw [← Vector.getElem_toList (by simpa using h)]
  simp [hl]

end Sys2Proof.Machine
end

