-- ==== Sys2Proof/Laws/PerInstr.lean ====
section
/-! SUPPORT. Statements made per instruction: one lemma per constructor of Instr.

MatchesRow: the word of a well-formed command has the fixed bits of the command's row of
spec/opcode_table.json (30_encoding.md R55). -/

namespace Sys2Proof.Laws.MatchesRow

/-- The encoding of a well-formed command matches its row of the opcode table. -/
def Statement (i : Instr) : Prop := i.WellFormed → i.row.matchesWord (encode i) = true

theorem nop : Statement .nop := fun _ => by decide
theorem keysetup (klen : Nat) : Statement (.keysetup klen) := fun h => by
  have hk : klen < 4 := by simpa [Instr.WellFormed, Instr.wellFormed] using h
  interval_cases klen <;> decide
theorem encrypt : Statement .encrypt := fun _ => by decide
theorem decrypt : Statement .decrypt := fun _ => by decide
theorem load : Statement .load := fun _ => by decide
theorem store : Statement .store := fun _ => by decide
theorem addrk (ridx : Nat) : Statement (.addrk ridx) := fun h => by
  have hr : ridx < 16 := by simpa [Instr.WellFormed, Instr.wellFormed] using h
  interval_cases ridx <;> decide
theorem subbytes : Statement .subbytes := fun _ => by decide
theorem invsubbytes : Statement .invsubbytes := fun _ => by decide
theorem shiftrows : Statement .shiftrows := fun _ => by decide
theorem invshiftrows : Statement .invshiftrows := fun _ => by decide
theorem mixcolumns : Statement .mixcolumns := fun _ => by decide
theorem invmixcolumns : Statement .invmixcolumns := fun _ => by decide
theorem xtime : Statement .xtime := fun _ => by decide

end Sys2Proof.Laws.MatchesRow
end

