-- ==== Sys2Proof/Tests/Slice0.lean ====
section
/-! SUPPORT. The model's own tests: the WellFormed smoke, decoding by words written out from 30_encoding.md,
single steps against the vectors of 95_test_vectors.md, and for every statement with hypotheses a concrete
state that meets them. -/

namespace Sys2Proof.Tests

open Sys2Proof.Machine

/-! ## WellFormed -/

theorem test_klen_4_is_ill_formed : ¬ (Instr.keysetup 4).WellFormed := by decide
theorem test_ridx_16_is_ill_formed : ¬ (Instr.addrk 16).WellFormed := by decide
theorem test_largest_operands_are_well_formed :
    (Instr.keysetup 3).WellFormed ∧ (Instr.addrk 15).WellFormed := by decide

/-! ## Decoding: each word written out bit by bit from R50 and R51 -/

theorem test_decode_nop : decode 0b00000000000000000000000000000000 = .ok .nop := by decide
theorem test_decode_keysetup :
    decode 0b00000000000000000000001000000001 = .ok (.keysetup 2) := by decide
theorem test_decode_encrypt : decode 0b00000000000000000000000000000010 = .ok .encrypt := by decide
theorem test_decode_decrypt : decode 0b00000000000000000000000000000011 = .ok .decrypt := by decide
theorem test_decode_load : decode 0b00000000000000000000000000000100 = .ok .load := by decide
theorem test_decode_store : decode 0b00000000000000000000000000000101 = .ok .store := by decide
theorem test_decode_addrk :
    decode 0b00000000000010100000000000000110 = .ok (.addrk 10) := by decide
theorem test_decode_subbytes : decode 0b00000000000000000000000000000111 = .ok .subbytes := by decide
theorem test_decode_invsubbytes :
    decode 0b00000000000000000000000000001000 = .ok .invsubbytes := by decide
theorem test_decode_shiftrows : decode 0b00000000000000000000000000001001 = .ok .shiftrows := by decide
theorem test_decode_invshiftrows :
    decode 0b00000000000000000000000000001010 = .ok .invshiftrows := by decide
theorem test_decode_mixcolumns :
    decode 0b00000000000000000000000000001011 = .ok .mixcolumns := by decide
theorem test_decode_invmixcolumns :
    decode 0b00000000000000000000000000001100 = .ok .invmixcolumns := by decide
theorem test_decode_xtime : decode 0b00000000000000000000000000001101 = .ok .xtime := by decide

/-- The illegal words of 95_test_vectors.md L2.7. -/
theorem test_illegal_words_are_rejected :
    [0x00000311, 0x00010002, 0x00000102, 0x0000000e, 0x0000000f, 0x00000010, 0x00100006, 0x80000004,
      0x0000040d].map decode =
    [.error .reservedBits, .error .unusedRidx, .error .unusedKlen, .error .illegalOpcode,
      .error .illegalOpcode, .error .reservedBits, .error .reservedBits, .error .reservedBits,
      .error .reservedBits] := by decide

/-! ## Single commands, against 95_test_vectors.md L2 -/

/-- The state a result answers; `State.reset` where it answers none. -/
def after (r : Result) : State :=
  match r with
  | .next t => t
  | .fault _ => State.reset
  | .refused _ => State.reset

/-- After reset, with the block `b` in `S`. -/
def withS (b : Block) : State := State.reset.setSReg b

/-- Block bytes 00 01 02 .. 0f. -/
def counting : Block := ⟨0x0706050403020100, 0x0f0e0d0c0b0a0908⟩

/-- L2.5: the round keys of key 2b7e151628aed2a6abf7158809cf4f3c, as the lanes listed there. -/
def listedSchedule : Vector Block 15 :=
  #v[⟨0xa6d2ae2816157e2b, 0x3c4fcf098815f7ab⟩, ⟨0xb12c548817fefaa0, 0x05766c2a3939a323⟩,
    ⟨0x43b9967af295c2f2, 0x7ff659737a803559⟩, ⟨0x3efe16477d47803d, 0x3b887a6d447e231e⟩,
    ⟨0x7f5b52a841a544ef, 0x00ad0bdb3b2571b6⟩, ⟨0x879d837cf8c6d1d4, 0xbc15f911bcb8f2ca⟩,
    ⟨0xfd3e0b117aa3886d, 0xfd9300ca4186f9db⟩, ⟨0xf3c95f5f0ef7544e, 0x4fdca64eb24fa684⟩,
    ⟨0xd2ba8db52173d2ea, 0x2f298d7f60f52b31⟩, ⟨0x21dcfa19f36677ac, 0x6e005c574129d128⟩,
    ⟨0x8925eec9a8f914d0, 0xa60c63b6c80c3fe1⟩, ⟨0, 0⟩, ⟨0, 0⟩, ⟨0, 0⟩, ⟨0, 0⟩]

/-- After KEYSETUP 128 with that key. -/
def listedKeyed : State := State.reset.setSchedule listedSchedule 10

theorem test_nop : after (exec .nop (withS counting)) = withS counting := by decide

/-- L2.1. -/
theorem test_xtime : (after (exec .xtime (withS counting))).sReg =
    ⟨0x0e0c0a0806040200, 0x1e1c1a1816141210⟩ := by decide

/-- L2.1: every byte 0x80 becomes 0x1b. -/
theorem test_xtime_reduces : (after (exec .xtime (withS
    ⟨0x8080808080808080, 0x8080808080808080⟩))).sReg =
    ⟨0x1b1b1b1b1b1b1b1b, 0x1b1b1b1b1b1b1b1b⟩ := by decide

/-- L2.2. -/
theorem test_subbytes : (after (exec .subbytes (withS counting))).sReg =
    ⟨0xc56f6bf27b777c63, 0x76abd7fe2b670130⟩ := by decide +kernel

/-- L2.2. -/
theorem test_invsubbytes : (after (exec .invsubbytes (withS counting))).sReg =
    ⟨0x38a53630d56a0952, 0xfbd7f3819ea340bf⟩ := by decide +kernel

/-- L2.3. -/
theorem test_shiftrows : (after (exec .shiftrows (withS counting))).sReg =
    ⟨0x030e09040f0a0500, 0x0b06010c07020d08⟩ := by decide

/-- L2.3. -/
theorem test_invshiftrows : (after (exec .invshiftrows (withS counting))).sReg =
    ⟨0x0b0e0104070a0d00, 0x0306090c0f020508⟩ := by decide

/-- L2.3: the block d4bf5d30e0b452aeb84111f11e2798e5. -/
theorem test_mixcolumns : (after (exec .mixcolumns (withS
    ⟨0xae52b4e0305dbfd4, 0xe598271ef11141b8⟩))).sReg =
    ⟨0x9a19cbe0e5816604, 0x4c2606287ad3f848⟩ := by decide +kernel

/-- L2.3: the columns db 13 53 45 and 2d 26 31 4c, twice. -/
theorem test_invmixcolumns : (after (exec .invmixcolumns (withS
    ⟨0x4c31262d455313db, 0x4c31262d455313db⟩))).sReg =
    ⟨0xd65050a0551da432, 0xd65050a0551da432⟩ := by decide +kernel

/-- L2.4. -/
theorem test_load : (after (exec .load { State.reset with
      din := #v[0x33221100, 0x77665544, 0xbbaa9988, 0xffeeddcc] })).sReg =
    ⟨0x7766554433221100, 0xffeeddccbbaa9988⟩ := by decide

/-- L2.4. -/
theorem test_store : (after (exec .store (withS ⟨0x30047b6ad8e0c469, 0x5ac5b47080b7cdd8⟩))).dout =
    #v[0xd8e0c469, 0x30047b6a, 0x80b7cdd8, 0x5ac5b470] := by decide

/-- L2.4: `S` = 0, ADDRK 10 gives RK[10]. -/
theorem test_addrk : (after (exec (.addrk 10) listedKeyed)).sReg =
    ⟨0x8925eec9a8f914d0, 0xa60c63b6c80c3fe1⟩ := by decide

/-- L2.4: ADDRK 11 with `NR` = 10 is refused with BAD_RIDX, `S` unchanged. -/
theorem test_addrk_bad_ridx : after (exec (.addrk 11) listedKeyed) =
    listedKeyed.setErr true 4 := by decide

/-- L2.5: the listed AES-128 schedule. -/
theorem test_keysetup_128 :
    (after (exec (.keysetup 0) { State.reset with
      key := #v[0x16157e2b, 0xa6d2ae28, 0x8815f7ab, 0x3c4fcf09, 1, 2, 3, 4] })).rk =
    listedSchedule := by decide +kernel

/-- L2.5: RK[12] and RK[14] of keys 00 01 02 .. 17 and 00 01 02 .. 1f. -/
theorem test_keysetup_192_256 :
    let s := { State.reset with
      key := #v[0x03020100, 0x07060504, 0x0b0a0908, 0x0f0e0d0c, 0x13121110, 0x17161514,
        0x1b1a1918, 0x1f1e1d1c] }
    (after (exec (.keysetup 1) s)).rk[12] = ⟨0x09dc781a330a97a4, 0x5d1da4e371c218c4⟩ ∧
    (after (exec (.keysetup 1) s)).rk[13] = ⟨0, 0⟩ ∧
    (after (exec (.keysetup 2) s)).rk[14] = ⟨0xe97909bfcc79fc24, 0x36de686d3cc21a37⟩ := by
  decide +kernel

/-- L2.6, K5. -/
theorem test_encrypt :
    (after (exec .encrypt { listedKeyed with
      din := #v[0xa8f64332, 0x8d305a88, 0xa2983131, 0x340737e0] })).dout =
    #v[0x1d842539, 0xfb09dc02, 0x978511dc, 0x320b6a19] := by decide +kernel

/-- L1, X1: the source's own vector, with the zero key's schedule. -/
theorem test_encrypt_zero_key :
    (after (exec .encrypt (State.reset.setSchedule (scheduleFile [0, 0, 0, 0] 4 10) 10))).dout =
    #v[0xd44be966, 0x3b2c8aef, 0x59fa4c88, 0x2e2b34ca] := by decide +kernel

/-- L2.6, K5: it decrypts back. -/
theorem test_decrypt :
    (after (exec .decrypt { listedKeyed with
      din := #v[0x1d842539, 0xfb09dc02, 0x978511dc, 0x320b6a19] })).dout =
    #v[0xa8f64332, 0x8d305a88, 0xa2983131, 0x340737e0] := by decide +kernel

/-! ## The register window and `STATUS`, against L2.7 -/

/-- `STATUS` after a refused word, from reset. -/
theorem test_status_of_refused_words_from_reset :
    [0x00000301, 0x00000311, 0x00000002, 0x00000003, 0x00000006, 0x000b0006, 0x0000000e].map
      (fun v => statusWord (issue v State.reset)) =
    [0x00000024, 0x00000014, 0x00000034, 0x00000034, 0x00000034, 0x00000034, 0x00000014] := by
  decide

/-- `STATUS` after a refused word, with an AES-128 schedule; a pending command shows `BUSY`. -/
theorem test_status_with_a_schedule :
    [0x00000301, 0x000b0006, 0x000a0006, 0x00000002].map (fun v => statusWord (issue v listedKeyed)) =
    [0x00000a26, 0x00000a46, 0x00000a03, 0x00000a03] := by decide

/-- P3: the first error is kept. -/
theorem test_first_error_is_kept :
    statusWord (issue 0x0000000e (issue 0x00000002 State.reset)) = 0x00000034 := by decide

/-- A write to offset 0x08 is a bus error, and a read of it returns 0. -/
theorem test_unmapped_offset_is_a_bus_error :
    (match performAccess (write32 0x08 1) State.reset with
      | .fault f => some f | _ => none) = some (.busError .writeError) ∧
    (match performAccess (read32 0x08 1) State.reset with
      | .fault f => some f | _ => none) = some (.busError (.readError 0)) := by decide

/-- A fetched word is run as the first instruction after reset. -/
theorem test_fetch_word_after_reset :
    (after (step (State.reset.withFetchWord 32 0x00000101))).nr = 12 ∧
    (after (step (State.reset.withFetchWord 32 0x00000002))).errcode = 3 := by decide

/-! ## Witnesses: for each statement with hypotheses, a state and operands that meet them -/

/-- A state after reset with a command word pending, an access held, and inputs to come. -/
def port (p : Option Word) (r : Option Access) (l : List Input) : State :=
  ((State.reset.setPending p).setRequest r).setInputs l

theorem witness_EncodedCommandsDecodeBack :
    (Instr.keysetup 3).WellFormed ∧ (Instr.addrk 15).WellFormed := by decide

theorem witness_DecodedWordsAreEncodings :
    decode 0x00000301 = .ok (.keysetup 3) ∧ decode 0x000F0006 = .ok (.addrk 15) := by decide

theorem witness_DecodingAgreesWithTheOpcodeTable :
    (Instr.addrk 0).row ∈ opcodeTable ∧
    (0x000F0006 : Word) &&& (Instr.addrk 0).row.mask = (Instr.addrk 0).row.value := by decide

theorem witness_CoreStepRunsThePendingCommand :
    (port (some 0) none [.coreTurn]).pending = some 0 ∧ decode 0 = .ok .nop ∧
    (port (some 0) none [.coreTurn]).inputs = [.coreTurn] ∧
    (port (some 0) none []).inputs = [] ∧
    (port (some 0) (some (read32 0x40 0)) [.access (read32 0x04 0)]).request = some (read32 0x40 0) ∧
    ¬ StatusAccess (read32 0x40 0) ∧
    (port (some 0) (some (read32 0x40 0)) [.access (read32 0x04 0)]).inputs =
      [.access (read32 0x04 0)] := by
  simp [port, StatusAccess, read32]
  decide

theorem witness_FetchedWordIsRun : decodeTableWord 32 0x000F0006 = some (.addrk 15) := by decide

/-- Each clause: an illegal word, KEYSETUP of length code 3, no key, an index above `NR` and the index
`NR` itself, and a command that needs no key. -/
theorem witness_CtrlWriteChecksInOrder :
    Presents (port none none [.access (write32 0x00 0x0000000E)]) (write32 0x00 0x0000000E) [] ∧
    decode 0x0000000E = .error .illegalOpcode ∧ decode 0x00000301 = .ok (.keysetup 3) ∧
    decode 0x00000002 = .ok .encrypt ∧ State.reset.keyValid = false ∧
    decode 0x000B0006 = .ok (.addrk 11) ∧ listedKeyed.nr.toNat < 11 ∧
    decode 0x000A0006 = .ok (.addrk 10) ∧ 10 ≤ listedKeyed.nr.toNat ∧
    decode 0x00000000 = .ok .nop ∧
    Presents (listedKeyed.setInputs [.access (write32 0x00 0x000B0006)])
      (write32 0x00 0x000B0006) [] :=
  ⟨⟨rfl, rfl⟩, by decide, by decide, by decide, rfl, by decide, by decide, by decide, by decide,
    by decide, rfl, rfl⟩

/-- Each clause: a `CTRL` write presented, a legal and an illegal access held with nothing to come, a
`STATUS` read, and a `STATUS` write with bit 2 set and clear. -/
theorem witness_AccessesAreHeldWhileBusy :
    (port (some 0) none []).pending ≠ none ∧
    Presents (port (some 0) none [.access (write32 0x00 0)]) (write32 0x00 0) [] ∧
    ¬ StatusAccess (write32 0x00 0) ∧
    (port (some 0) (some (read32 0x08 0)) []).inputs.head? ≠ some .reset ∧
    ¬ LegalAccess (read32 0x08 0) ∧ LegalAccess (read32 0x4C 0) ∧
    Presents (port (some 0) none [.access (read32 0x04 0)]) (read32 0x04 0) [] ∧
    Presents (port (some 0) none [.access (write32 0x04 4)]) (write32 0x04 4) [] ∧
    Presents (port (some 0) none [.access (write32 0x04 0)]) (write32 0x04 0) [] := by
  simp [port, Presents, StatusAccess, LegalAccess, read32, write32]

/-- The ways an access is illegal, and the last legal offset. -/
theorem witness_IllegalAccessIsABusError :
    Presents (port none none [.access ⟨false, 0x30, 0x7, 0⟩]) ⟨false, 0x30, 0x7, 0⟩ [] ∧
    ¬ LegalAccess ⟨false, 0x30, 0x7, 0⟩ ∧ ¬ LegalAccess (read32 0x02 0) ∧
    ¬ LegalAccess (read32 0x08 0) ∧ ¬ LegalAccess (read32 0x0C 0) ∧ ¬ LegalAccess (read32 0x50 0) ∧
    ¬ LegalAccess (read32 0xFC 0) ∧ LegalAccess (read32 0x00 0) ∧ LegalAccess (read32 0x10 0) ∧
    LegalAccess (read32 0x4C 0) := by
  simp [port, Presents, LegalAccess, read32]

/-- Each clause: a read, and a write to each register at the last index. -/
theorem witness_SideEffectsOfAccesses :
    Presents (port none none [.access (read32 0x4C 0)]) (read32 0x4C 0) [] ∧
    LegalAccess (read32 0x4C 0) ∧ (read32 0x4C 0).write = false ∧
    Presents (port none none [.access (write32 0x00 2)]) (write32 0x00 2) [] ∧
    Presents (port none none [.access (write32 0x04 4)]) (write32 0x04 4) [] ∧
    Presents (port none none [.access (write32 (BitVec.ofNat 8 (0x10 + 4 * 7)) 1)])
      (write32 (BitVec.ofNat 8 (0x10 + 4 * 7)) 1) [] ∧
    Presents (port none none [.access (write32 (BitVec.ofNat 8 (0x30 + 4 * 3)) 1)])
      (write32 (BitVec.ofNat 8 (0x30 + 4 * 3)) 1) [] ∧
    Presents (port none none [.access (write32 (BitVec.ofNat 8 (0x40 + 4 * 3)) 1)])
      (write32 (BitVec.ofNat 8 (0x40 + 4 * 3)) 1) [] := by
  simp [port, Presents, LegalAccess, read32, write32]

theorem witness_ReadsReturnTheMappedRegisters :
    (port none none []).pending = none ∧
    ∀ o ∈ [0x00, 0x04, 0x10, 0x10 + 4 * 7, 0x30, 0x30 + 4 * 3, 0x40, 0x40 + 4 * 3],
      Presents (port none none [.access (read32 (BitVec.ofNat 8 o) 0)])
        (read32 (BitVec.ofNat 8 o) 0) [] :=
  ⟨rfl, fun _ _ => ⟨rfl, rfl⟩⟩

theorem witness_WindowSitsAtBase :
    (Config.base + 0x100 < Config.base ∨ Config.base + 0x100 ≤ Config.base + 0x100) :=
  .inr (Nat.le_refl _)

theorem witness_ResetClearsEveryRegister :
    (port (some 2) (some (read32 0x40 0)) [.reset]).inputs = [.reset] := rfl

/-- A state with a schedule and a pending ADDRK meets the invariant, and its step answers a next state. -/
def legalState : State :=
  { State.reset with
    rk := scheduleFile (List.replicate 4 0) 4 10
    nr := 10
    keyValid := true
    pending := some 0x000A0006 }

theorem witness_StepKeepsTheMachineLegal : legalState.Inv ∧ ∃ t, step legalState = .next t := by
  refine ⟨⟨.inl ⟨rfl, rfl⟩, .inr ⟨rfl, 0, 4, 10, List.replicate 4 0, rfl, rfl, rfl, rfl⟩, ?_, ?_⟩, ?_⟩
  · intro v hv
    obtain rfl : 0x000A0006 = v := Option.some.inj hv
    exact ⟨.addrk 10, by decide, rfl⟩
  · intro a ha
    cases ha
  · exact ⟨_, rfl⟩

/-- Each clause: an error recorded and a step that is neither a reset nor a clearing write. -/
theorem witness_ErrorsAreStickyAndNeverBlock :
    let s := ((port none none [.coreTurn]).setErr true 3)
    s.err = true ∧ (∃ t, step s = .next t) ∧ s.inputs.head? ≠ some .reset ∧ ¬ WritesStatusBit2 s := by
  refine ⟨rfl, ⟨_, rfl⟩, by decide, ?_⟩
  rintro ⟨a, h | ⟨rest, h⟩, -⟩
  · cases h
  · simp [Presents, port] at h

/-- Each clause: a `STATUS` write with bit 2 set and clear, and a step that clears the error. -/
theorem witness_StatusWriteIsTheOnlyReturnFromAnError :
    let s := ((port none none [.access (write32 0x04 4)]).setErr true 3)
    Presents s (write32 0x04 4) [] ∧ (4 : Word).getLsbD 2 = true ∧ (0xFFFFFFFB : Word).getLsbD 2 = false ∧
    s.err = true ∧ ∃ t, step s = .next t ∧ t.err = false := by
  exact ⟨⟨rfl, rfl⟩, by decide, by decide, rfl, _, rfl, by decide⟩

theorem witness_OnlyKeysetupChangesTheSchedule :
    ∃ t, step (port (some 0x00000201) none [.coreTurn]) = .next t ∧ t.nr ≠ 0 ∧ t.pending = none ∧
      (port (some 0x00000201) none [.coreTurn]).inputs.head? ≠ some .reset := by
  exact ⟨_, rfl, by decide, rfl, by decide⟩

/-- A command pending, a `STATUS` write, another access and a core turn to come, and no reset. -/
theorem witness_EveryCommandCompletes :
    let s := port (some 0x00000004) none
      [.access (write32 0x04 4), .access (read32 0x40 0), .coreTurn]
    s.pending = some 0x00000004 ∧ decode 0x00000004 = .ok .load ∧ .reset ∉ s.inputs := by decide

theorem witness_IssuedCommandCompletesWithItsEffect :
    let l := List.replicate 2 (Input.access (read32 0x04 0)) ++ [Input.coreTurn]
    let s := port none none (.access (write32 0x00 0x00000004) :: l)
    s.pending = none ∧ decode 0x00000004 = .ok .load ∧ precheck .load s = none ∧
    Presents s (write32 0x00 0x00000004) l ∧
    ∃ t, exec .load { s with inputs := [], response := none } = .next t :=
  ⟨rfl, by decide, rfl, ⟨rfl, rfl⟩, _, rfl⟩

theorem witness_ReadAfterEncryptReturnsTheCiphertext :
    let r := Input.access (read32 (BitVec.ofNat 8 (0x40 + 4 * 3)) 0)
    let s := legalState.setPending none |>.setInputs [.access (write32 0x00 0x00000002), r]
    s.pending = none ∧ s.keyValid = true ∧ Presents s (write32 0x00 0x00000002) [r] :=
  ⟨rfl, rfl, rfl, rfl⟩

theorem witness_NopChangesNothing :
    let s := port none none [.access (write32 0x00 0x00000000), .coreTurn]
    s.pending = none ∧ Presents s (write32 0x00 0x00000000) [.coreTurn] := ⟨rfl, rfl, rfl⟩

/-- Each clause at its boundary: no key, an index one above `NR`, the index `NR`, and `S` = 0. -/
theorem witness_AddrkXorsOneRoundKey :
    State.reset.keyValid = false ∧ listedKeyed.keyValid = true ∧ listedKeyed.nr.toNat < 11 ∧
    10 ≤ listedKeyed.nr.toNat ∧ listedKeyed.nr.toNat ≤ 14 ∧ listedKeyed.sReg = ⟨0, 0⟩ := by
  decide

theorem witness_KeysetupExpandsTheKey :
    (2, 8, 14) ∈ [(0, 4, 10), (1, 6, 12), (2, 8, 14)] ∧
    ((8 : Nat) ≤ 59 ∧ 59 < 4 * (14 + 1)) ∧ (8 % 8 = 0 ∧ 12 % 8 ≠ 0 ∧ 12 % 8 = 4 ∧ 13 % 8 ≠ 4) ∧
    ((10 : Nat) ≤ 10 ∧ (10 : Nat) < 11) := by decide

/-- Two states that agree on the four key words of KEYSETUP 128 and differ in `KEY7`. -/
theorem witness_ScheduleDependsOnTheKeyWordsOnly :
    ∀ (j : Nat) (_ : j < 8), j < 4 → State.reset.key[j] = (State.reset.setKey 7 1).key[j] := by
  decide

/-- Each clause: no key, and the least and greatest round counts of a schedule. -/
theorem witness_EncryptRunsTheRounds :
    State.reset.keyValid = false ∧ listedKeyed.keyValid = true ∧ 1 ≤ listedKeyed.nr.toNat ∧
    (State.reset.setSchedule listedSchedule 14).nr.toNat ≤ 14 := by decide

theorem witness_DecryptRunsTheRounds :
    State.reset.keyValid = false ∧ legalState.keyValid = true ∧ 1 ≤ legalState.nr.toNat ∧
    legalState.nr.toNat ≤ 14 := ⟨rfl, rfl, by decide, by decide⟩

/-- A nonzero byte, and a column of four equal bytes. -/
theorem witness_FieldProductLaws_SboxesAreTheTablesAndInverse : (0x53 : Byte) ≠ 0 := by decide

theorem witness_RoundTransformLaws :
    ∀ r, r < 4 → blockByte ⟨0xc6c6c6c600000000, 0⟩ (r + 4 * 1) = 0xc6 := by
  intro r h
  interval_cases r <;> decide

end Sys2Proof.Tests
end

/-! PROOFS of the family 20_memory.md: one access with no command pending (R34, R36). -/

namespace Sys2Proof.Machine

/-! ## What a presented access does -/

/-- What a register reads as does not depend on the port's response. -/
theorem readReg_setResponse (r : Reg) (s : State) (q : Option BusResponse) :
    readReg r (s.setResponse q) = readReg r s := by
  cases r <;> rfl

/-- A presented read of a register answers its value and changes nothing else. -/
theorem step_reads {s : State} {a : Access} {rest : List Input} {r : Reg} (hp : s.pending = none)
    (ha : Presents s a rest) (hr : accessReg a = some r) (hw : a.write = false) :
    step s = .next ((s.setInputs rest).setResponse (some (.read (readReg r (s.setInputs rest))))) := by
  rw [step_performs ha (.inl hp)]
  simp only [performAccess, hr, hw, readReg_setResponse]
  rfl

/-- The error action neither reads nor changes the port's response. -/
theorem raiseErr_setResponse (e : ErrorCode) (s : State) (q : Option BusResponse) :
    raiseErr e (s.setResponse q) = (raiseErr e s).setResponse q :=
  (apply_ite (State.setResponse · q) (s.err = true) s (s.setErr true (errorNumber e))).symm

/-- Issuing a command neither reads nor changes the port's response. -/
theorem issue_setResponse (v : Word) (s : State) (q : Option BusResponse) :
    issue v (s.setResponse q) = (issue v s).setResponse q := by
  unfold issue
  cases decode v with
  | error _ => exact raiseErr_setResponse .illegalCmd s q
  | ok i =>
    have checks : precheck i (s.setResponse q) = precheck i s := precheck_congr i rfl rfl
    simp only [checks]
    cases precheck i s with
    | none => rfl
    | some e => exact raiseErr_setResponse e s q

/-- A register write neither reads nor changes the port's response. -/
theorem writeReg_setResponse (r : Reg) (v : Word) (s : State) (q : Option BusResponse) :
    writeReg r v (s.setResponse q) = (writeReg r v s).setResponse q := by
  cases r with
  | ctrl => exact issue_setResponse v s q
  | status => simp only [writeReg, writeStatus]; split <;> rfl
  | key | din | dout => rfl

/-- A presented write to a register writes it, and answers that the write was done. -/
theorem step_writes {s : State} {a : Access} {rest : List Input} {r : Reg} (hp : s.pending = none)
    (ha : Presents s a rest) (hr : accessReg a = some r) (hw : a.write = true) :
    step s = .next (writeReg r a.wdata ((s.setInputs rest).setResponse (some .written))) := by
  rw [step_performs ha (.inl hp)]
  simp only [performAccess, hr, hw, writeReg_setResponse]
  rfl

/-- A legal access names a register (R34). -/
theorem LegalAccess.exists_reg {a : Access} (h : LegalAccess a) : ∃ r, accessReg a = some r :=
  Option.ne_none_iff_exists'.1 fun hn => (accessReg_eq_none_iff a).1 hn h

/-! ## The obligations -/

/-- Settles O11: an access that names no register is the fault of R34, and one that names a register is
a read or a write of it. -/
theorem illegalAccessIsABusError : Obligations.IllegalAccessIsABusError := by
  intro s a rest hp ha
  constructor
  · intro hillegal
    have hnone : accessReg a = none := (accessReg_eq_none_iff a).2 hillegal
    rw [step_performs ha (.inl hp)]
    simp only [performAccess, hnone, errorResponse]
  · intro hlegal
    obtain ⟨r, hr⟩ := hlegal.exists_reg
    cases hw : a.write with
    | true =>
      refine ⟨_, step_writes hp ha hr hw, fun _ => ?_, nofun⟩
      rw [writeReg_setResponse, State.setResponse_response]
    | false => exact ⟨_, step_reads hp ha hr hw, nofun, fun _ => ⟨_, rfl⟩⟩

/-- Settles O12: each clause is the read or the write of the register that the offset names. -/
theorem sideEffectsOfAccesses : Obligations.SideEffectsOfAccesses := by
  intro s rest hp after
  refine ⟨?read, ?ctrl, ?status, ?key, ?din, ?dout⟩
  case read =>
    intro a ha hlegal hw
    obtain ⟨r, hr⟩ := hlegal.exists_reg
    exact ⟨_, step_reads hp ha hr hw⟩
  case ctrl => exact fun v ha => step_writes hp ha (accessReg_ctrl true v) rfl
  case status =>
    intro v ha
    rw [step_writes hp ha (accessReg_status true v) rfl]
    simp only [writeReg, writeStatus, clearsError]
    rfl
  case key => exact fun j h v ha => step_writes hp ha (accessReg_key true v h) rfl
  case din => exact fun j h v ha => step_writes hp ha (accessReg_din true v h) rfl
  case dout => exact fun j v h ha => step_writes hp ha (accessReg_dout true v h) rfl

end Sys2Proof.Machine

/-! PROOFS of the family 30_encoding.md: which words the decoder of R55 accepts (R54). -/

namespace Sys2Proof

/-! ## The parts of the decoder -/

/-- The opcode map of R51 has a command exactly for the opcodes below 0xE. -/
theorem exists_decodeOp_eq_ok_iff (op klen ridx : Nat) :
    (∃ i, decodeOp op klen ridx = .ok i) ↔ op < 0xE := by
  constructor
  · rintro ⟨i, h⟩
    by_contra hge
    unfold decodeOp at h
    split at h
    case h_15 => cases h
    all_goals omega
  · intro hlt
    interval_cases op <;> exact ⟨_, rfl⟩

/-- The reserved bits are clear when each of their three fields is 0 (R54). -/
theorem reservedClear_iff (v : Word) :
    reservedClear v = true ↔
      v.extractLsb' 4 4 = 0 ∧ v.extractLsb' 10 6 = 0 ∧ v.extractLsb' 20 12 = 0 := by
  simp only [reservedClear, Bool.and_eq_true, beq_iff_eq, and_assoc]

/-- `OP` read as a number is `n` exactly when its four bits are `n` (R50). -/
theorem fieldOp_eq_iff (v : Word) (n : BitVec 4) :
    fieldOp v = n.toNat ↔ v.extractLsb' 0 4 = n := BitVec.toNat_inj

/-- As `fieldOp_eq_iff`, for `KLEN`. -/
theorem fieldKlen_eq_iff (v : Word) (n : BitVec 2) :
    fieldKlen v = n.toNat ↔ v.extractLsb' 8 2 = n := BitVec.toNat_inj

/-- As `fieldOp_eq_iff`, for `RIDX`. -/
theorem fieldRidx_eq_iff (v : Word) (n : BitVec 4) :
    fieldRidx v = n.toNat ↔ v.extractLsb' 16 4 = n := BitVec.toNat_inj

/-- The decoder accepts a word as `i` when none of its four checks rejects the word and the opcode
map answers `i` (R55). -/
theorem decode_eq_ok_iff (v : Word) (i : Instr) :
    decode v = .ok i ↔
      reservedClear v = true ∧ fieldOp v < 0xE ∧ (fieldOp v ≠ 0x1 → fieldKlen v = 0) ∧
        (fieldOp v ≠ 0x6 → fieldRidx v = 0) ∧
        decodeOp (fieldOp v) (fieldKlen v) (fieldRidx v) = .ok i := by
  simp only [decode, ite_eq_iff, reduceCtorEq, and_false, false_or, Bool.not_eq_false, not_le,
    not_and, not_not]

/-! ## The obligation -/

/-- Settles O4: the opcode map answers exactly below 0xE, a bound the decoder has checked already, so its
four checks alone decide. -/
theorem legalWordConditions : Obligations.LegalWordConditions := by
  intro v
  have hop : fieldOp v < 0xE ↔ v.extractLsb' 0 4 < 0xE := Iff.rfl
  have hkeysetup : fieldOp v = 0x1 ↔ v.extractLsb' 0 4 = 0x1 := fieldOp_eq_iff v 0x1
  have haddrk : fieldOp v = 0x6 ↔ v.extractLsb' 0 4 = 0x6 := fieldOp_eq_iff v 0x6
  have hklen : fieldKlen v = 0 ↔ v.extractLsb' 8 2 = 0 := fieldKlen_eq_iff v 0
  have hridx : fieldRidx v = 0 ↔ v.extractLsb' 16 4 = 0 := fieldRidx_eq_iff v 0
  simp only [decode_eq_ok_iff, exists_and_left, exists_decodeOp_eq_ok_iff, reservedClear_iff, hop,
    hkeysetup, haddrk, hklen, hridx, ne_eq, and_assoc]
  tauto

end Sys2Proof

/-! PROOFS of the family 40_gf_arith.md: the masking sequence of R62 doubles each byte (R61), and XTIME
(R66). -/

namespace Sys2Proof.Machine

/-! ## Bytes of shifts and differences, at any width

Byte `k` is `x.extractLsb' (8 * k) 8`, as in `wordByte` and `laneByte`. -/

/-- Where no byte of `m` exceeds that of `n`, the bytes below byte `k` together do not either. -/
theorem mod_le_mod_of_bytes_le {m n : Nat} (h : ∀ j, m / 256 ^ j % 256 ≤ n / 256 ^ j % 256) (k : Nat) :
    m % 256 ^ k ≤ n % 256 ^ k := by
  induction k with
  | zero => simp only [pow_zero, Nat.mod_one, le_refl]
  | succ k ih =>
    rw [Nat.mod_pow_succ, Nat.mod_pow_succ]
    exact Nat.add_le_add ih (Nat.mul_le_mul_left _ (h k))

/-- A difference whose low part does not borrow is divided part by part. -/
theorem sub_div_of_mod_le {m n d : Nat} (hd : 0 < d) (h : m % d ≤ n % d) :
    (n - m) / d = n / d - m / d := by
  have hm := Nat.div_add_mod' m d
  have hn := Nat.div_add_mod' n d
  have hlt := Nat.mod_lt n hd
  apply Nat.div_eq_of_lt_le
  · rw [Nat.sub_mul]
    omega
  · rw [Nat.add_mul, Nat.sub_mul]
    omega

section

variable {w : Nat} {x y : BitVec w}

theorem toNat_byte (x : BitVec w) (k : Nat) :
    (x.extractLsb' (8 * k) 8).toNat = x.toNat / 256 ^ k % 256 := by
  rw [BitVec.extractLsb'_toNat, Nat.shiftRight_eq_div_pow, pow_mul]
  rfl

/-- A difference in which no byte borrows is taken byte by byte. -/
theorem byte_sub_of_bytes_le (h : ∀ j, y.extractLsb' (8 * j) 8 ≤ x.extractLsb' (8 * j) 8) (k : Nat) :
    (x - y).extractLsb' (8 * k) 8 = x.extractLsb' (8 * k) 8 - y.extractLsb' (8 * k) 8 := by
  have hbyte : ∀ j, y.toNat / 256 ^ j % 256 ≤ x.toNat / 256 ^ j % 256 := fun j => by
    simpa only [BitVec.le_def, toNat_byte] using h j
  have hlow := mod_le_mod_of_bytes_le hbyte
  have hle : y ≤ x := by
    have hlt : 2 ^ w ≤ 256 ^ w := Nat.pow_le_pow_left (by decide) w
    simpa only [Nat.mod_eq_of_lt (x.isLt.trans_le hlt), Nat.mod_eq_of_lt (y.isLt.trans_le hlt),
      BitVec.le_def] using hlow w
  have hdivle : y.toNat / 256 ^ k ≤ x.toNat / 256 ^ k := Nat.div_le_div_right hle
  have hk := hbyte k
  apply BitVec.eq_of_toNat_eq
  rw [toNat_byte, BitVec.toNat_sub_of_le hle, BitVec.toNat_sub_of_le (h k), toNat_byte, toNat_byte,
    sub_div_of_mod_le (by positivity) (hlow k)]
  omega

/-- A shift by one that takes no bit out of a byte is a shift of each byte. -/
theorem byte_shiftLeft_one (h : ∀ i, i % 8 = 7 → y.getLsbD i = false) {k : Nat} (hk : 8 * k + 8 ≤ w) :
    (y <<< 1).extractLsb' (8 * k) 8 = y.extractLsb' (8 * k) 8 <<< 1 := by
  apply BitVec.eq_of_getLsbD_eq
  intro i hi
  cases i with
  | zero =>
    have hcarry : ¬ 8 * k < 1 → y.getLsbD (8 * k - 1) = false := fun hk0 => h _ (by omega)
    simpa using fun _ => hcarry
  | succ i =>
    have hw : 8 * k + i + 1 < w := by omega
    have hi' : i < 8 := by omega
    simp [-BitVec.getLsbD_eq_getElem, hw, hi, hi', ← Nat.add_assoc]

/-- A shift of top bits down to bit 0 of their bytes is a shift of each byte. -/
theorem byte_ushiftRight_seven (h : ∀ i, i % 8 ≠ 7 → y.getLsbD i = false) (k : Nat) :
    (y >>> 7).extractLsb' (8 * k) 8 = y.extractLsb' (8 * k) 8 >>> 7 := by
  apply BitVec.eq_of_getLsbD_eq
  intro i hi
  cases i with
  | zero => simp [Nat.add_comm]
  | succ i =>
    have hclear : y.getLsbD (7 + (8 * k + (i + 1))) = false := h _ (by omega)
    have hout : ¬ 7 + (i + 1) < 8 := by omega
    simp [hclear, hout]

end

/-! ## The masking sequence of R62 -/

/-- The sequence of R62 at any width: `top` is the mask of the bytes' bits 7, and `red` is 0x1B in each
byte. -/
def maskedDoubling {w : Nat} (top red x : BitVec w) : BitVec w :=
  let hb := x &&& top
  ((x ^^^ hb) <<< 1) ^^^ ((hb - (hb >>> 7)) &&& red)

theorem xtime8_eq_maskedDoubling :
    xtime8 = maskedDoubling 0x8080808080808080 0x1B1B1B1B1B1B1B1B := rfl

/-- At the width of one byte: a set bit 7 becomes 0x80 - 0x01 = 0x7F, and 0x1B under the mask. -/
theorem maskedDoubling_byte : ∀ a : Byte, maskedDoubling 0x80 0x1B a = xtime a := by decide

/-- R62's sequence doubles each byte: no part of it carries or borrows from one byte to another. -/
theorem byte_maskedDoubling {w : Nat} {top red : BitVec w}
    (htop : ∀ i, i < w → top.getLsbD i = decide (i % 8 = 7)) (x : BitVec w) {k : Nat}
    (hk : 8 * k + 8 ≤ w) (hred : red.extractLsb' (8 * k) 8 = 0x1B) :
    (maskedDoubling top red x).extractLsb' (8 * k) 8 = xtime (x.extractLsb' (8 * k) 8) := by
  have honlyTop : ∀ i, i % 8 ≠ 7 → (x &&& top).getLsbD i = false := fun i hi => by
    cases hx : x.getLsbD i with
    | false => simp [hx]
    | true => simp [htop i (BitVec.lt_of_getLsbD hx), hi]
  have hnoTop : ∀ i, i % 8 = 7 → (x ^^^ (x &&& top)).getLsbD i = false := fun i hi => by
    cases hx : x.getLsbD i with
    | false => simp [hx]
    | true => simp [htop i (BitVec.lt_of_getLsbD hx), hi, hx]
  have htopByte : top.extractLsb' (8 * k) 8 = 0x80 := by
    have hbits : ∀ i < 8, (0x80 : Byte).getLsbD i = decide (i = 7) := by decide
    apply BitVec.eq_of_getLsbD_eq
    intro i hi
    rw [hbits i hi, BitVec.getLsbD_extractLsb', htop _ (by omega), Nat.mul_add_mod,
      Nat.mod_eq_of_lt hi, decide_eq_true hi, Bool.true_and]
  have hborrow : ∀ j, ((x &&& top) >>> 7).extractLsb' (8 * j) 8 ≤ (x &&& top).extractLsb' (8 * j) 8 :=
    fun j => by
      rw [byte_ushiftRight_seven honlyTop, BitVec.le_def, BitVec.toNat_ushiftRight]
      exact Nat.shiftRight_le _ _
  rw [← maskedDoubling_byte, ← hred, ← htopByte]
  simp only [maskedDoubling, BitVec.extractLsb'_xor, BitVec.extractLsb'_and,
    byte_shiftLeft_one hnoTop hk, byte_sub_of_bytes_le hborrow, byte_ushiftRight_seven honlyTop]

/-- Lane-parallel doubling doubles each of the eight bytes (R62). -/
theorem laneByte_xtime8 (x : Lane) {k : Nat} (hk : k < 8) :
    laneByte (xtime8 x) k = xtime (laneByte x k) := by
  have htop : ∀ i, i < 64 → (0x8080808080808080 : Lane).getLsbD i = decide (i % 8 = 7) := by decide
  have hred : (0x1B1B1B1B1B1B1B1B : Lane).extractLsb' (8 * k) 8 = 0x1B := by
    revert k
    decide
  rw [xtime8_eq_maskedDoubling]
  exact byte_maskedDoubling htop x (by omega) hred

theorem xtime8_eq_mapLaneBytes (x : Lane) : xtime8 x = mapLaneBytes xtime x :=
  lane_eq_of_bytes fun k hk => by rw [laneByte_xtime8 x hk, laneByte_mapLaneBytes xtime x hk]

/-! ## The obligation -/

/-- Settles O35: XTIME has no check that can fail, and its effect maps `xtime` over the bytes of both
lanes. -/
theorem xtimeDoublesEveryByte : Obligations.XtimeDoublesEveryByte := by
  refine ⟨by decide, fun a => ?byte, fun s => ⟨⟨xtime8 s.sReg.l0, xtime8 s.sReg.l1⟩, ?exec, rfl, rfl,
    fun k hk => ?bytes⟩⟩
  case byte =>
    have hmask : (a <<< 1) &&& 0xFF#8 = a <<< 1 := BitVec.and_allOnes
    exact congrArg (· ^^^ _) hmask.symm
  case exec => exact (exec_eq .xtime s).trans (runChecked_of_none rfl _)
  case bytes =>
    rw [xtime8_eq_mapLaneBytes, xtime8_eq_mapLaneBytes]
    exact blockByte_mapLanes xtime s.sReg hk

end Sys2Proof.Machine

/-! PROOFS of the family 41_sbox.md: SUBBYTES and INVSUBBYTES substitute each byte of `S` (R71, R72). -/

namespace Sys2Proof.Machine

/-! ## The S-boxes on one byte -/

theorem sbox_00 : sbox 0x00 = 0x63 := by decide

theorem sbox_52 : sbox 0x52 = 0x00 := by decide

/-- The forward S-box is the table of R67: the one evaluation of the field inverse at every byte. -/
theorem sboxTable_getElem? : ∀ x : Byte, sboxTable[x.toNat]? = some (sbox x) := by decide +kernel

/-- The forward S-box has no fixed byte. -/
theorem sbox_ne_self (x : Byte) : sbox x ≠ x := by
  have htable : ∀ x : Byte, sboxTable[x.toNat]? ≠ some x := by decide
  intro hfixed
  exact htable x ((sboxTable_getElem? x).trans (congrArg some hfixed))

/-- The two linear maps of R67 and R68, each with its constant, undo each other. -/
theorem invAffine_affine : ∀ y : Byte, invAffine (affine y ^^^ 0x63) ^^^ 0x05 = y := by decide

/-- The field inverse `inv` read off a table entry, the linear part of the S-box undone. -/
def ginvOfTable (x : Byte) : Byte := invAffine (sboxTable.getD x.toNat 0) ^^^ 0x05

theorem ginv_eq_ginvOfTable (x : Byte) : ginv x = ginvOfTable x := by
  rw [ginvOfTable, List.getD_eq_getElem?_getD, sboxTable_getElem?]
  exact (invAffine_affine (ginv x)).symm

/-- The field inverse is its own inverse, at 0 as well. -/
theorem ginv_ginv (x : Byte) : ginv (ginv x) = x := by
  have htable : ∀ x, ginvOfTable (ginvOfTable x) = x := by decide
  rw [ginv_eq_ginvOfTable, ginv_eq_ginvOfTable, htable]

/-- The inverse S-box undoes the forward one: first its linear part, then the field inverse. -/
theorem invSbox_sbox (x : Byte) : invSbox (sbox x) = x := by
  rw [invSbox, sbox, invAffine_affine, ginv_ginv]

/-! ## The S-boxes on the block -/

theorem blockByte_subBytes (b : Block) {k : Nat} (hk : k < 16) :
    blockByte (subBytes b) k = sbox (blockByte b k) := blockByte_mapLanes sbox b hk

theorem blockByte_invSubBytes (b : Block) {k : Nat} (hk : k < 16) :
    blockByte (invSubBytes b) k = invSbox (blockByte b k) := blockByte_mapLanes invSbox b hk

/-- InvSubBytes undoes SubBytes (R68). -/
theorem invSubBytes_subBytes (b : Block) : invSubBytes (subBytes b) = b :=
  block_eq_of_bytes fun k hk => by
    rw [blockByte_invSubBytes _ hk, blockByte_subBytes _ hk, invSbox_sbox]

/-! ## The two commands -/

/-- SUBBYTES has no check that can fail (R71). -/
theorem exec_subbytes (s : State) : exec .subbytes s = .next (s.setSReg (subBytes s.sReg)) :=
  (exec_eq .subbytes s).trans (runChecked_of_none rfl _)

/-- INVSUBBYTES has no check that can fail (R72). -/
theorem exec_invsubbytes (s : State) : exec .invsubbytes s = .next (s.setSReg (invSubBytes s.sReg)) :=
  (exec_eq .invsubbytes s).trans (runChecked_of_none rfl _)

/-! ## The obligations -/

/-- Settles O30: SUBBYTES writes SubBytes of `S`, whose bytes are the S-box's values, none of them its
argument. -/
theorem subbytesSubstitutesEveryByte : Obligations.SubbytesSubstitutesEveryByte := by
  refine ⟨by decide, sbox_00, sbox_52,
    fun s => ⟨subBytes s.sReg, exec_subbytes s, rfl, rfl, fun k hk => ?_⟩⟩
  rw [blockByte_subBytes s.sReg hk]
  exact ⟨rfl, sbox_ne_self _⟩

/-- Settles O31: INVSUBBYTES writes InvSubBytes of `S`, which undoes SubBytes; its two corner values are
those of the forward S-box turned round. -/
theorem invsubbytesSubstitutesEveryByte : Obligations.InvsubbytesSubstitutesEveryByte := by
  refine ⟨by decide, ?corner63, ?corner00,
    fun s => ⟨invSubBytes s.sReg, exec_invsubbytes s, rfl, rfl, fun k => blockByte_invSubBytes s.sReg⟩,
    fun s => ⟨_, exec_subbytes s, ?restores⟩⟩
  case corner63 => rw [← sbox_00, invSbox_sbox]
  case corner00 => rw [← sbox_52, invSbox_sbox]
  case restores =>
    rw [exec_invsubbytes, State.setSReg_sReg, invSubBytes_subBytes]
    rfl

end Sys2Proof.Machine

/-! PROOFS of the family 43_roundkey_transfer.md: ADDRK (R82, R83), LOAD (R84), STORE (R85) and NOP (R86). -/

namespace Sys2Proof.Machine

/-! ## AddRoundKey -/

/-- A round key added twice cancels (R82). -/
theorem addRoundKey_addRoundKey (b k : Block) : addRoundKey (addRoundKey b k) k = b := by
  simp only [addRoundKey, Block.xor, BitVec.xor_assoc, BitVec.xor_self, BitVec.xor_zero]

theorem addRoundKey_zero (k : Block) : addRoundKey Block.zero k = k := by
  simp only [addRoundKey, Block.xor, Block.zero, BitVec.ofNat_eq_ofNat, BitVec.zero_xor]

/-- Inside the file, the round key is the file's entry (R18). -/
theorem roundKey_eq_getElem (rk : Vector Block 15) {i : Nat} (hi : i < 15) : roundKey rk i = rk[i] := by
  simp only [roundKey, Vector.getElem?_eq_getElem hi, Option.getD_some]

/-! ## Blocks in the words of DIN and DOUT -/

/-- Byte `m` of a lane's word `h` is the lane's byte `4h + m` (R9). -/
theorem wordByte_extractLsb' (x : Lane) (h : Nat) {m : Nat} (hm : m < 4) :
    wordByte (x.extractLsb' (32 * h) 32) m = laneByte x (4 * h + m) := by
  apply BitVec.eq_of_getLsbD_eq
  intro i hi
  have hword : 8 * m + i < 32 := by omega
  have hbit : 32 * h + (8 * m + i) = 8 * (4 * h + m) + i := by omega
  simp only [wordByte, laneByte, BitVec.getLsbD_extractLsb', hword, hbit, decide_true, Bool.true_and]

/-- Byte `m` of `DOUTj` is block byte `4j + m` (R39). -/
theorem wordByte_doutWords (b : Block) {j m : Nat} (hj : j < 4) (hm : m < 4) :
    wordByte (doutWords b)[j] m = blockByte b (4 * j + m) := by
  have hl0 : ∀ h < 2, blockByte b (4 * h + m) = wordByte (b.l0.extractLsb' (32 * h) 32) m :=
    fun h hh => by rw [blockByte, if_pos (by omega), wordByte_extractLsb' b.l0 h hm]
  have hl1 : ∀ h, blockByte b (4 * (h + 2) + m) = wordByte (b.l1.extractLsb' (32 * h) 32) m :=
    fun h => by
      rw [blockByte, if_neg (by omega), wordByte_extractLsb' b.l1 h hm]
      congr 1
      omega
  match j with
  | 0 => exact (hl0 0 (by decide)).symm
  | 1 => exact (hl0 1 (by decide)).symm
  | 2 => exact (hl1 0).symm
  | 3 => exact (hl1 1).symm

/-- The words of the block in `DIN` are `DIN`'s (R39). -/
theorem doutWords_dinBlock (din : Vector Word 4) : doutWords (dinBlock din) = din := by
  apply Vector.ext
  intro j hj
  match j with
  | 0 => exact BitVec.extractLsb'_append_eq_right
  | 1 => exact BitVec.extractLsb'_append_eq_left
  | 2 => exact BitVec.extractLsb'_append_eq_right
  | 3 => exact BitVec.extractLsb'_append_eq_left

/-- Byte `m` of `DINj` is block byte `4j + m` (R39): `DIN` holds the words that the block would be stored
as. -/
theorem blockByte_dinBlock (din : Vector Word 4) {j m : Nat} (hj : j < 4) (hm : m < 4) :
    blockByte (dinBlock din) (4 * j + m) = wordByte din[j] m := by
  rw [← wordByte_doutWords _ hj hm]
  simp only [doutWords_dinBlock]

/-! ## The four commands -/

section

variable {s : State} {r : Nat}

/-- Without a schedule, ADDRK records NO_KEY (R83). -/
theorem exec_addrk_noKey (hk : s.keyValid = false) : exec (.addrk r) s = .next (raiseErr .noKey s) :=
  (exec_eq (.addrk r) s).trans (runChecked_of_some (by simp only [precheck, hk, if_true]) _)

/-- With a schedule, an index above `NR` records BAD_RIDX (R83). -/
theorem exec_addrk_badRidx (hk : s.keyValid = true) (hr : s.nr.toNat < r) :
    exec (.addrk r) s = .next (raiseErr .badRidx s) :=
  (exec_eq (.addrk r) s).trans
    (runChecked_of_some (by simp only [precheck, hk, hr, if_true, Bool.true_eq_false, if_false]) _)

/-- With a schedule, an index up to `NR` passes the checks of ADDRK (R83). -/
theorem exec_addrk (hk : s.keyValid = true) (hr : r ≤ s.nr.toNat) :
    exec (.addrk r) s = .next (s.setSReg (addRoundKey s.sReg (roundKey s.rk r))) :=
  (exec_eq (.addrk r) s).trans
    (runChecked_of_none (by simp only [precheck, hk, hr.not_gt, Bool.true_eq_false, if_false]) _)

end

/-- LOAD has no check that can fail (R84). -/
theorem exec_load (s : State) : exec .load s = .next (s.setSReg (dinBlock s.din)) :=
  (exec_eq .load s).trans (runChecked_of_none rfl _)

/-- STORE has no check that can fail (R85). -/
theorem exec_store (s : State) : exec .store s = .next (s.setDout (doutWords s.sReg)) :=
  (exec_eq .store s).trans (runChecked_of_none rfl _)

/-- NOP has no check that can fail, and no effect (R86). -/
theorem exec_nop (s : State) : exec .nop s = .next s :=
  (exec_eq .nop s).trans (runChecked_of_none rfl _)

theorem decode_nop : decode 0x00000000 = .ok .nop := by decide

/-- A NOP word written to `CTRL` becomes pending (R86, R104). -/
theorem issue_nop (s : State) : issue 0x00000000 s = s.setPending (some 0x00000000) := by
  simp only [issue, decode_nop, precheck]

/-- A pending NOP completes with nothing but itself retired (R86, R116). -/
theorem coreStep_nop {s : State} (hp : s.pending = some 0x00000000) :
    coreStep s = .next (s.setPending none) := by
  rw [coreStep_of_decode hp decode_nop, exec_nop, retire_next]

/-! ## The obligations -/

/-- Settles O29: the two refusals are the failed checks of R83, and the effect XORs the file's entry into
`S`, where a second time cancels the first. -/
theorem addrkXorsOneRoundKey : Obligations.AddrkXorsOneRoundKey := by
  refine ⟨by decide, fun s r => ⟨fun hk => ?noKey, fun hk hr => ?badRidx, fun hk hr hnr => ?added⟩⟩
  case noKey => rw [exec_addrk_noKey hk, raiseErr_eq_recorded, errorNumber]
  case badRidx => rw [exec_addrk_badRidx hk hr, raiseErr_eq_recorded, errorNumber]
  case added =>
    have hentry : roundKey s.rk r = s.rk[r] := roundKey_eq_getElem s.rk (by omega)
    refine ⟨addRoundKey s.sReg s.rk[r], ?exec, rfl, rfl, fun hzero => ?fromZero, ?twice⟩
    case exec =>
      rw [exec_addrk hk hr, hentry]
      rfl
    case fromZero =>
      rw [hzero]
      exact addRoundKey_zero s.rk[r]
    case twice =>
      refine (exec_addrk (s := s.setSReg (addRoundKey s.sReg s.rk[r])) hk hr).trans ?_
      rw [State.setSReg_sReg, State.setSReg_rk, hentry, addRoundKey_addRoundKey]
      rfl

/-- Settles O26: the write makes the word pending, and the core's turn completes it, which leaves no command
pending, as before the write. -/
theorem nopChangesNothing : Obligations.NopChangesNothing := by
  refine ⟨decode_nop, exec_nop, fun s rest hp ha => ⟨_, ?issued, rfl, ?completed⟩⟩
  case issued =>
    rw [step_writes hp ha (accessReg_ctrl true 0) rfl]
    exact congrArg _ (issue_nop _)
  case completed =>
    rw [step_coreTurn rfl (Option.some_ne_none _), coreStep_nop rfl, ← hp]
    rfl

/-- Settles O27: LOAD writes the block in `DIN`, whose words are `DIN`'s. -/
theorem loadCopiesDinToTheState : Obligations.LoadCopiesDinToTheState := by
  refine ⟨by decide, fun s => ⟨dinBlock s.din, exec_load s, rfl, rfl, fun j m => blockByte_dinBlock s.din,
    ?stored⟩⟩
  rw [exec_store, doutWords_dinBlock]
  rfl

/-- Settles O28: STORE writes the words of `S`. -/
theorem storeCopiesTheStateToDout : Obligations.StoreCopiesTheStateToDout :=
  ⟨by decide, fun s => ⟨doutWords s.sReg, exec_store s, rfl, rfl, rfl, rfl,
    fun _ _ => wordByte_doutWords s.sReg⟩⟩

end Sys2Proof.Machine

/-! PROOFS of the family 45_driver.md: ENCRYPT and DECRYPT run the rounds of the cipher and of its inverse
(R96 to R99), and DECRYPT undoes ENCRYPT. -/

namespace Sys2Proof.Machine

/-! ## The inverse transforms of 42_geometry.md

MixColumns is undone on one column, where row 0 stands for every row: both matrices are circulant. -/

/-- InvShiftRows undoes ShiftRows: each row is rotated back (R74). -/
theorem invShiftRows_shiftRows (b : Block) : invShiftRows (shiftRows b) = b :=
  block_eq_of_cells fun r c hr hc => by
    have hsource : (c + 4 - r) % 4 < 4 := Nat.mod_lt _ (by decide)
    have hback : ((c + 4 - r) % 4 + r) % 4 = c := by omega
    rw [invShiftRows, cell_ofCells _ hr hc, shiftRows, cell_ofCells _ hr hsource, hback]

/-- Doubling is linear over XOR (R61). -/
theorem xtime_xor (a b : Byte) : xtime (a ^^^ b) = xtime a ^^^ xtime b := by
  have hreduce : ∀ p q : Bool, (if p ^^ q then 0x1B else 0 : Byte) =
      (if p then 0x1B else 0) ^^^ (if q then 0x1B else 0) := by decide
  simp only [xtime, BitVec.shiftLeft_xor_distrib, BitVec.getLsbD_xor, hreduce]
  ac_rfl

theorem mul09_xor (a b : Byte) : mul09 (a ^^^ b) = mul09 a ^^^ mul09 b := by
  simp only [mul09, xtime_xor]
  ac_rfl

theorem mul0B_xor (a b : Byte) : mul0B (a ^^^ b) = mul0B a ^^^ mul0B b := by
  simp only [mul0B, xtime_xor]
  ac_rfl

theorem mul0D_xor (a b : Byte) : mul0D (a ^^^ b) = mul0D a ^^^ mul0D b := by
  simp only [mul0D, xtime_xor]
  ac_rfl

theorem mul0E_xor (a b : Byte) : mul0E (a ^^^ b) = mul0E a ^^^ mul0E b := by
  simp only [mul0E, xtime_xor]
  ac_rfl

/-- Row 0 of the matrix of R76 times the matrix of R75 is row 0 of the identity. -/
theorem invMixRow_zero_mixRow (a0 a1 a2 a3 : Byte) :
    invMixRow 0 (mixRow 0 a0 a1 a2 a3) (mixRow 1 a0 a1 a2 a3) (mixRow 2 a0 a1 a2 a3)
      (mixRow 3 a0 a1 a2 a3) = a0 := by
  have h0 : ∀ a, mul0E (mul02 a) ^^^ mul0B a ^^^ mul0D a ^^^ mul09 (mul03 a) = a := by decide
  have h1 : ∀ a, mul0E (mul03 a) ^^^ mul0B (mul02 a) ^^^ mul0D a ^^^ mul09 a = 0 := by decide
  have h2 : ∀ a, mul0E a ^^^ mul0B (mul03 a) ^^^ mul0D (mul02 a) ^^^ mul09 a = 0 := by decide
  have h3 : ∀ a, mul0E a ^^^ mul0B a ^^^ mul0D (mul03 a) ^^^ mul09 (mul02 a) = 0 := by decide
  calc
    _ = (mul0E (mul02 a0) ^^^ mul0B a0 ^^^ mul0D a0 ^^^ mul09 (mul03 a0)) ^^^
        (mul0E (mul03 a1) ^^^ mul0B (mul02 a1) ^^^ mul0D a1 ^^^ mul09 a1) ^^^
        (mul0E a2 ^^^ mul0B (mul03 a2) ^^^ mul0D (mul02 a2) ^^^ mul09 a2) ^^^
        (mul0E a3 ^^^ mul0B a3 ^^^ mul0D (mul03 a3) ^^^ mul09 (mul02 a3)) := by
      simp only [invMixRow, mixRow, mul0E_xor, mul0B_xor, mul0D_xor, mul09_xor]
      ac_rfl
    _ = a0 := by
      rw [h0, h1, h2, h3]
      simp only [BitVec.ofNat_eq_ofNat, BitVec.xor_zero]

/-- Row `r + 1` of the matrix of R75 is row `r` of the column turned by one. -/
theorem mixRow_succ {r : Nat} (hr : r < 4) (a0 a1 a2 a3 : Byte) :
    mixRow ((r + 1) % 4) a0 a1 a2 a3 = mixRow r a1 a2 a3 a0 := by
  interval_cases r <;> simp only [mixRow] <;> ac_rfl

/-- As `mixRow_succ`, for the matrix of R76. -/
theorem invMixRow_succ {r : Nat} (hr : r < 4) (a0 a1 a2 a3 : Byte) :
    invMixRow ((r + 1) % 4) a0 a1 a2 a3 = invMixRow r a1 a2 a3 a0 := by
  interval_cases r <;> simp only [invMixRow] <;> ac_rfl

/-- The matrix of R76 undoes that of R75 on a column `a`: row `r + 1` as row `r` on the turned column. -/
theorem invMixRow_mixRow (r : Nat) (hr : r < 4) (a : Nat → Byte) :
    invMixRow r (mixRow 0 (a 0) (a 1) (a 2) (a 3)) (mixRow 1 (a 0) (a 1) (a 2) (a 3))
      (mixRow 2 (a 0) (a 1) (a 2) (a 3)) (mixRow 3 (a 0) (a 1) (a 2) (a 3)) = a r := by
  induction r generalizing a with
  | zero => exact invMixRow_zero_mixRow _ _ _ _
  | succ r ih =>
    have hturn : (r + 1) % 4 = r + 1 := Nat.mod_eq_of_lt hr
    have hmix := fun k (hk : k < 4) => mixRow_succ hk (a 0) (a 1) (a 2) (a 3)
    have hprev := ih (by omega) fun k => a ((k + 1) % 4)
    simp only [← hmix, hturn, Nat.reduceAdd, Nat.reduceMod, Nat.reduceLT, zero_add] at hprev
    rw [← hturn, invMixRow_succ (by omega), hturn]
    exact hprev

/-- InvMixColumns undoes MixColumns (R76). -/
theorem invMixColumns_mixColumns (b : Block) : invMixColumns (mixColumns b) = b :=
  block_eq_of_cells fun r c hr hc => by
    rw [invMixColumns, cell_ofCells _ hr hc, mixColumns]
    simp only [cell_ofCells, hc, Nat.reduceLT]
    exact invMixRow_mixRow r hr (cell b · c)

/-! ## The rounds -/

/-- The block after round `i` of the cipher (R96); `i` = 0 is the first round key added. -/
def cipherState (x : Block) (rk : Vector Block 15) (i : Nat) : Block :=
  (List.range' 1 i).foldl (cipherRound rk) (addRoundKey x (roundKey rk 0))

theorem cipherState_succ (x : Block) (rk : Vector Block 15) (i : Nat) :
    cipherState x rk (i + 1) = cipherRound rk (cipherState x rk i) (i + 1) := by
  rw [cipherState, List.range'_1_concat, List.foldl_append, Nat.add_comm 1 i]
  rfl

theorem cipher_eq_cipherFinal (x : Block) (rk : Vector Block 15) (nr : Nat) :
    cipher x rk nr = cipherFinal rk nr (cipherState x rk (nr - 1)) := rfl

/-- The block after the rounds `nr - 1` down to `i` of the inverse cipher (R97); `i` = `nr` is round key
`nr` added. -/
def invCipherState (y : Block) (rk : Vector Block 15) (nr i : Nat) : Block :=
  (List.range' i (nr - i)).reverse.foldl (invCipherRound rk) (addRoundKey y (roundKey rk nr))

theorem invCipherState_self (y : Block) (rk : Vector Block 15) (nr : Nat) :
    invCipherState y rk nr nr = addRoundKey y (roundKey rk nr) := by
  rw [invCipherState, Nat.sub_self]
  rfl

theorem invCipherState_of_lt (y : Block) (rk : Vector Block 15) {nr i : Nat} (h : i < nr) :
    invCipherState y rk nr i = invCipherRound rk (invCipherState y rk nr (i + 1)) i := by
  have hrounds : List.range' i (nr - i) = i :: List.range' (i + 1) (nr - (i + 1)) := by
    rw [show nr - i = nr - (i + 1) + 1 by omega, List.range'_succ]
  rw [invCipherState, hrounds, List.reverse_cons, List.foldl_append]
  rfl

theorem invCipher_eq_invCipherFinal (y : Block) (rk : Vector Block 15) (nr : Nat) :
    invCipher y rk nr = invCipherFinal rk (invCipherState y rk nr 1) := rfl

/-! ## Decryption undoes encryption -/

/-- An inverse round takes the substituted and shifted block after a round to that before it. -/
theorem invCipherRound_cipherRound (rk : Vector Block 15) (s : Block) (i : Nat) :
    invCipherRound rk (shiftRows (subBytes (cipherRound rk s i))) i = shiftRows (subBytes s) := by
  rw [invCipherRound, invShiftRows_shiftRows, invSubBytes_subBytes, cipherRound,
    addRoundKey_addRoundKey, invMixColumns_mixColumns]

/-- The inverse rounds in reverse order undo the rounds, whatever their indices. -/
theorem foldl_invCipherRound_foldl_cipherRound (rk : Vector Block 15) (l : List Nat) (s : Block) :
    l.reverse.foldl (invCipherRound rk) (shiftRows (subBytes (l.foldl (cipherRound rk) s))) =
      shiftRows (subBytes s) := by
  induction l generalizing s with
  | nil => rfl
  | cons i l ih =>
    rw [List.foldl_cons, List.reverse_cons, List.foldl_append, ih]
    exact invCipherRound_cipherRound rk s i

/-- Decryption inverts encryption, for every round-key file and round count (R100, law (a)). -/
theorem invCipher_cipher (p : Block) (rk : Vector Block 15) (nr : Nat) :
    invCipher (cipher p rk nr) rk nr = p := by
  rw [invCipher, cipher, cipherFinal, addRoundKey_addRoundKey, foldl_invCipherRound_foldl_cipherRound,
    invCipherFinal, invShiftRows_shiftRows, invSubBytes_subBytes, addRoundKey_addRoundKey]

/-- The block in the words of `DOUT`, read as `DIN` is, is the block (R39). -/
theorem dinBlock_doutWords (b : Block) : dinBlock (doutWords b) = b :=
  block_eq_of_bytes fun k hk => by
    have hj : k / 4 < 4 := by omega
    have hm : k % 4 < 4 := Nat.mod_lt k (by decide)
    rw [← Nat.div_add_mod k 4, blockByte_dinBlock _ hj hm, wordByte_doutWords _ hj hm]

/-! ## The two commands -/

section

variable {s : State}

/-- Without a schedule, ENCRYPT records NO_KEY (R98). -/
theorem exec_encrypt_noKey (hk : s.keyValid = false) : exec .encrypt s = .next (raiseErr .noKey s) :=
  (exec_eq .encrypt s).trans (runChecked_of_some (by simp only [precheck, hk, if_true]) _)

/-- With a schedule, ENCRYPT delivers the cipher of the block in `DIN` (R98). -/
theorem exec_encrypt (hk : s.keyValid = true) :
    exec .encrypt s = .next (deliver (cipher (dinBlock s.din) s.rk s.nr.toNat) s) :=
  (exec_eq .encrypt s).trans
    (runChecked_of_none (by simp only [precheck, hk, Bool.true_eq_false, if_false]) _)

/-- Without a schedule, DECRYPT records NO_KEY (R99). -/
theorem exec_decrypt_noKey (hk : s.keyValid = false) : exec .decrypt s = .next (raiseErr .noKey s) :=
  (exec_eq .decrypt s).trans (runChecked_of_some (by simp only [precheck, hk, if_true]) _)

/-- With a schedule, DECRYPT delivers the inverse cipher of the block in `DIN` (R99). -/
theorem exec_decrypt (hk : s.keyValid = true) :
    exec .decrypt s = .next (deliver (invCipher (dinBlock s.din) s.rk s.nr.toNat) s) :=
  (exec_eq .decrypt s).trans
    (runChecked_of_none (by simp only [precheck, hk, Bool.true_eq_false, if_false]) _)

end

/-! ## The obligations -/

/-- Settles O38: the states of `cipherState` are the trace of R96, and the refusal is the failed check of
R98. -/
theorem encryptRunsTheRounds : Obligations.EncryptRunsTheRounds := by
  refine ⟨by decide, fun s hk => ?noKey, fun s hk h1 h14 =>
    ⟨cipherState (dinBlock s.din) s.rk, cipher (dinBlock s.din) s.rk s.nr.toNat, ?start,
      fun i hi hi1 _ => ?round, ?final, exec_encrypt hk⟩⟩
  case noKey => rw [exec_encrypt_noKey hk, raiseErr_eq_recorded, errorNumber]
  case start => exact congrArg (addRoundKey _) (roundKey_eq_getElem s.rk (by decide))
  case round =>
    rw [← roundKey_eq_getElem s.rk hi]
    obtain ⟨j, rfl⟩ := Nat.exists_eq_add_of_le' hi1
    exact cipherState_succ _ _ j
  case final => rw [cipher_eq_cipherFinal, cipherFinal, roundKey_eq_getElem s.rk (by omega)]

/-- Settles O39: the states of `invCipherState` are the trace of R97, the refusal is the failed check of
R99, and the inverse cipher undoes the cipher of the block that `DOUT` gives back to `DIN`. -/
theorem decryptRunsTheRounds : Obligations.DecryptRunsTheRounds := by
  refine ⟨by decide, fun s hk => ?noKey, fun s hk h1 h14 =>
    ⟨invCipherState (dinBlock s.din) s.rk s.nr.toNat, invCipher (dinBlock s.din) s.rk s.nr.toNat, ?start,
      fun i hi hi1 hlt => ?round, ?final, exec_decrypt hk⟩,
    fun s hk => ⟨_, _, exec_encrypt hk, exec_decrypt hk, ?roundTrip⟩⟩
  case noKey => rw [exec_decrypt_noKey hk, raiseErr_eq_recorded, errorNumber]
  case start =>
    rw [invCipherState_self, roundKey_eq_getElem s.rk (by omega)]
    rfl
  case round => rw [invCipherState_of_lt _ _ hlt, invCipherRound, roundKey_eq_getElem s.rk hi]
  case final => rw [invCipher_eq_invCipherFinal, invCipherFinal, roundKey_eq_getElem s.rk (by decide)]
  case roundTrip =>
    change doutWords (invCipher (dinBlock (doutWords (cipher (dinBlock s.din) s.rk s.nr.toNat)))
      s.rk s.nr.toNat) = s.din
    rw [dinBlock_doutWords, invCipher_cipher, doutWords_dinBlock]

end Sys2Proof.Machine

/-! PROOFS of the family 60_exceptions.md: the checks of a `CTRL` write (R103, R104), and how a recorded error
is kept and cleared (R105, R106). -/

namespace Sys2Proof.Machine

/-! ## The checks of a `CTRL` write -/

/-- `KLEN` is a 2-bit field (R52). -/
theorem klen_lt_of_decode_keysetup {v : Word} {klen : Nat} (h : decode v = .ok (.keysetup klen)) :
    klen < 4 := by
  obtain ⟨-, -, -, -, hop⟩ := (decode_eq_ok_iff v _).1 h
  unfold decodeOp at hop
  split at hop <;> cases hop
  exact (v.extractLsb' 8 2).isLt

theorem keyParams_isNone_iff (klen : Nat) : (keyParams klen).isNone = true ↔ 3 ≤ klen := by
  match klen with
  | 0 | 1 | 2 => decide
  | n + 3 => exact iff_of_true rfl (Nat.le_add_left 3 n)

/-- The commands that need a schedule (R104, check 3). -/
def NeedsSchedule (i : Instr) : Prop := i = .encrypt ∨ i = .decrypt ∨ ∃ r, i = .addrk r

section

variable {s : State} {i : Instr} {v : Word}

theorem precheck_noKey (hi : NeedsSchedule i) (hk : s.keyValid = false) :
    precheck i s = some .noKey := by
  obtain rfl | rfl | ⟨r, rfl⟩ := hi <;> exact if_pos hk

theorem precheck_badRidx {r : Nat} (hk : s.keyValid = true) (hr : s.nr.toNat < r) :
    precheck (.addrk r) s = some .badRidx := by
  simp only [precheck, hk, hr, if_true, Bool.true_eq_false, if_false]

/-- A command with none of the causes of checks 2 to 4 passes them (R104). -/
theorem precheck_eq_none (hlen : ∀ klen, i = .keysetup klen → klen < 3)
    (hkey : NeedsSchedule i → s.keyValid = true) (hidx : ∀ r, i = .addrk r → r ≤ s.nr.toNat) :
    precheck i s = none := by
  cases i with
  | keysetup klen =>
    have hknown : ¬ (keyParams klen).isNone = true := by
      rw [keyParams_isNone_iff, not_le]
      exact hlen klen rfl
    exact if_neg hknown
  | encrypt => simp only [precheck, hkey (.inl rfl), Bool.true_eq_false, if_false]
  | decrypt => simp only [precheck, hkey (.inr (.inl rfl)), Bool.true_eq_false, if_false]
  | addrk r =>
    simp only [precheck, hkey (.inr (.inr ⟨r, rfl⟩)), (hidx r rfl).not_gt, Bool.true_eq_false, if_false]
  | nop | load | store | subbytes | invsubbytes | shiftrows | invshiftrows | mixcolumns
  | invmixcolumns | xtime => rfl

/-- An illegal word records ILLEGAL_CMD (R104, check 1). -/
theorem issue_of_illegal {e : DecodeReject} (hd : decode v = .error e) :
    issue v s = recorded 1 s := by
  simp only [issue, hd]
  exact raiseErr_eq_recorded .illegalCmd s

/-- A command that fails a check records the check's error. -/
theorem issue_of_failed {e : ErrorCode} (hd : decode v = .ok i) (hc : precheck i s = some e) :
    issue v s = recorded (errorNumber e) s := by
  simp only [issue, hd, hc]
  exact raiseErr_eq_recorded e s

/-- A command that passes the checks becomes pending. -/
theorem issue_of_passed (hd : decode v = .ok i) (hc : precheck i s = none) :
    issue v s = s.setPending (some v) := by
  simp only [issue, hd, hc]

end

/-- Settles O9: the write issues the word, and each clause is the outcome of one check of R104. -/
theorem ctrlWriteChecksInOrder : Obligations.CtrlWriteChecksInOrder := by
  intro s v rest hp ha u
  have hstep : step s = .next (issue v u) := step_writes hp ha (accessReg_ctrl true v) rfl
  refine ⟨fun e hd => ?illegal, fun i hd => ⟨fun hi => ?badKeylen, fun hi =>
    ⟨fun ⟨hneeds, hk⟩ => ?noKey, fun hkey => ?keyed⟩⟩⟩
  case illegal => rw [hstep, issue_of_illegal hd]
  case badKeylen =>
    subst hi
    rw [hstep, issue_of_failed hd rfl, errorNumber]
  case noKey => rw [hstep, issue_of_failed hd (precheck_noKey (s := u) hneeds hk), errorNumber]
  case keyed =>
    have hvalid : NeedsSchedule i → u.keyValid = true := fun hneeds =>
      eq_true_of_ne_false fun hk => hkey ⟨hneeds, hk⟩
    refine ⟨fun r hr hidx => ?badRidx, fun hidx => ?issued⟩
    case badRidx =>
      subst hr
      have hbad : precheck (.addrk r) u = some .badRidx :=
        precheck_badRidx (hvalid (.inr (.inr ⟨r, rfl⟩))) hidx
      rw [hstep, issue_of_failed hd hbad, errorNumber]
    case issued =>
      have hlen : ∀ klen, i = .keysetup klen → klen < 3 := by
        rintro klen rfl
        have hlt : klen < 4 := klen_lt_of_decode_keysetup hd
        have hne : klen ≠ 3 := fun h => hi (congrArg Instr.keysetup h)
        omega
      rw [hstep, issue_of_passed hd (precheck_eq_none hlen hvalid hidx)]
      rfl

/-! ## A recorded error does not block commands -/

/-- Raising an error changes nothing that a later write of `ERR` and `ERRCODE` leaves. -/
theorem setErr_raiseErr (e : ErrorCode) (s : State) (b : Bool) (c : BitVec 4) :
    (raiseErr e s).setErr b c = s.setErr b c := by
  obtain ⟨-, h⟩ | ⟨-, h⟩ := raiseErr_cases e s <;> rw [h]
  rfl

/-- The first error is kept (R103). -/
theorem raiseErr_of_err (e : ErrorCode) {s : State} (h : s.err = true) : raiseErr e s = s := if_pos h

/-- No effect reads or writes `ERR` and `ERRCODE`. -/
theorem commandEffect_setErr (i : Instr) (s : State) (b : Bool) (c : BitVec 4) :
    commandEffect i (s.setErr b c) = (commandEffect i s).setErr b c := by
  cases i with
  | keysetup klen =>
    simp only [commandEffect, keysetupEffect]
    cases keyParams klen <;> rfl
  | nop | encrypt | decrypt | load | store | addrk _ | subbytes | invsubbytes | shiftrows
  | invshiftrows | mixcolumns | invmixcolumns | xtime => rfl

/-- With an error recorded a command answers what it answers without, but for the error (R105). -/
theorem exec_setErr_true {i : Instr} {s t : State} (c : BitVec 4) (h : exec i s = .next t) :
    exec i (s.setErr true c) = .next (t.setErr true c) := by
  have hcheck : precheck i (s.setErr true c) = precheck i s := precheck_congr i rfl rfl
  rw [exec_eq] at h ⊢
  cases hc : precheck i s with
  | some e =>
    rw [runChecked_of_some hc] at h
    cases h
    rw [runChecked_of_some (hcheck.trans hc), raiseErr_of_err e rfl, setErr_raiseErr]
  | none =>
    rw [runChecked_of_none hc] at h
    cases h
    rw [runChecked_of_none (hcheck.trans hc), commandEffect_setErr]

/-- With an error recorded a word is issued as it is without, but for the error (R105). -/
theorem issue_setErr_true (v : Word) (s : State) (c : BitVec 4) :
    issue v (s.setErr true c) = (issue v s).setErr true c := by
  have hraise : ∀ e, raiseErr e (s.setErr true c) = (raiseErr e s).setErr true c := fun e => by
    rw [raiseErr_of_err e rfl, setErr_raiseErr]
  unfold issue
  cases decode v with
  | error _ => exact hraise .illegalCmd
  | ok i =>
    have hcheck : precheck i (s.setErr true c) = precheck i s := precheck_congr i rfl rfl
    simp only [hcheck]
    cases precheck i s with
    | some e => exact hraise e
    | none => rfl

/-! ## A recorded error stays -/

section

variable {s t : State}

/-- A command keeps the error recorded before it. -/
theorem exec_keeps_error (i : Instr) (h : s.err = true) :
    ∃ t, exec i s = .next t ∧ t.err = true ∧ t.errcode = s.errcode := by
  obtain ⟨e, -, hexec⟩ | ⟨-, hexec⟩ := exec_cases i s
  · exact ⟨_, hexec, by rw [raiseErr_of_err e h]; exact ⟨h, rfl⟩⟩
  · obtain ⟨-, -, herr, hcode, -⟩ := (effect_commandEffect i s).frame
    exact ⟨_, hexec, herr.trans h, hcode⟩

theorem coreStep_keeps_error (h : s.err = true) (ht : coreStep s = .next t) :
    t.err = true ∧ t.errcode = s.errcode := by
  unfold coreStep at ht
  split at ht
  · cases ht
    exact ⟨h, rfl⟩
  · split at ht
    · next i _ =>
      obtain ⟨u, hexec, herr⟩ := exec_keeps_error i h
      rw [hexec] at ht
      cases ht
      exact herr
    · rw [raiseErr_of_err _ h] at ht
      cases ht
      exact ⟨h, rfl⟩

theorem writeReg_keeps_error (h : s.err = true) {r : Reg} {v : Word}
    (hr : ¬ (r = .status ∧ clearsError v = true)) :
    (writeReg r v s).err = true ∧ (writeReg r v s).errcode = s.errcode := by
  cases r with
  | ctrl =>
    obtain ⟨e, hissue⟩ | ⟨i, -, -, hissue⟩ := issue_cases v s
    · rw [writeReg, hissue, raiseErr_of_err e h]
      exact ⟨h, rfl⟩
    · rw [writeReg, hissue]
      exact ⟨h, rfl⟩
  | status =>
    obtain ⟨hclears, -⟩ | ⟨-, hsame⟩ := writeStatus_cases v s
    · exact absurd ⟨rfl, hclears⟩ hr
    · rw [writeReg, hsame]
      exact ⟨h, rfl⟩
  | key | din | dout => exact ⟨h, rfl⟩

theorem performAccess_keeps_error (h : s.err = true) {a : Access}
    (ha : ¬ (StatusAccess a ∧ a.write = true ∧ a.wdata.getLsbD 2 = true))
    (ht : performAccess a s = .next t) : t.err = true ∧ t.errcode = s.errcode := by
  obtain ⟨-, hfault⟩ | ⟨r, hr, hw, hwritten⟩ | ⟨r, -, -, hread⟩ := performAccess_cases a s
  · rw [hfault] at ht
    cases ht
  · rw [hwritten] at ht
    cases ht
    refine writeReg_keeps_error h fun ⟨hstatus, hclears⟩ => ha ⟨?_, hw, hclears⟩
    rwa [← accessReg_eq_status_iff, ← hstatus]
  · rw [hread] at ht
    cases ht
    exact ⟨h, rfl⟩

/-- Only a reset or a `STATUS` write with bit 2 = 1 changes a recorded error (R105, R106). -/
theorem step_keeps_error (h : s.err = true) (ht : step s = .next t)
    (hreset : s.inputs.head? ≠ some .reset) (hclear : ¬ WritesStatusBit2 s) :
    t.err = true ∧ t.errcode = s.errcode := by
  obtain ⟨rest, hinputs, -⟩ | ⟨-, hway⟩ := step_cases s
  · exact absurd (congrArg List.head? hinputs) hreset
  · obtain ⟨l, -, -, hstep⟩ | ⟨a, l, -, hfrom, hstep⟩ | ⟨r, l, -, hstep⟩ := hway <;> rw [hstep] at ht
    · exact coreStep_keeps_error (s := (s.setInputs l).setResponse none) h ht
    · refine performAccess_keeps_error (s := ((s.setRequest none).setInputs l).setResponse none) h
        (fun ha => hclear ⟨a, ?_, ha⟩) ht
      exact hfrom.imp And.left fun hpresents => ⟨l, hpresents⟩
    · cases ht
      exact ⟨h, rfl⟩

end

/-- Settles O20: no step but the two excepted writes an error that is recorded, and neither the checks nor
the effects read it. -/
theorem errorsAreStickyAndNeverBlock : Obligations.ErrorsAreStickyAndNeverBlock := by
  refine ⟨fun s t => step_keeps_error, fun i s h => ?neverClears, fun i s c => ?neverBlocks,
    fun v s c => issue_setErr_true v (s.setErr false 0) c⟩
  case neverClears =>
    obtain ⟨t, hexec, herr, -⟩ := exec_keeps_error i h
    exact ⟨t, hexec, herr⟩
  case neverBlocks =>
    obtain ⟨t, hexec⟩ : ∃ t, exec i (s.setErr false 0) = .next t := by
      obtain ⟨e, -, h⟩ | ⟨-, h⟩ := exec_cases i (s.setErr false 0) <;> exact ⟨_, h⟩
    exact ⟨t, t.setErr true c, hexec, exec_setErr_true (s := s.setErr false 0) c hexec, rfl⟩

/-! ## The return from an error -/

/-- A presented write to `STATUS` is performed at once, also while a command is pending (R42, R106). -/
theorem step_writes_status {s : State} {v : Word} {rest : List Input}
    (ha : Presents s (write32 0x04 v) rest) :
    step s = .next (writeStatus v ((s.setInputs rest).setResponse (some .written))) := by
  have hreg : accessReg (write32 0x04 v) = some .status := accessReg_status true v
  rw [step_performs ha (.inr ⟨rfl, rfl⟩), performAccess, hreg]
  exact congrArg _ (writeReg_setResponse .status v _ _).symm

/-- Settles O21: a `STATUS` write is performed whatever is pending, and any other step but a reset keeps the
error (`step_keeps_error`). -/
theorem statusWriteIsTheOnlyReturnFromAnError : Obligations.StatusWriteIsTheOnlyReturnFromAnError := by
  refine ⟨fun s v rest ha => ⟨fun hset => ?clears, fun hclear => ?keeps⟩, fun s t h ht hcleared => ?only⟩
  case clears =>
    rw [step_writes_status ha, writeStatus, clearsError, if_pos hset]
    rfl
  case keeps =>
    rw [step_writes_status ha, writeStatus, clearsError, if_neg (ne_true_of_eq_false hclear)]
    rfl
  case only =>
    by_contra hother
    rw [not_or] at hother
    obtain ⟨herr, -⟩ := step_keeps_error h ht hother.1 hother.2
    exact Bool.false_ne_true (hcleared.symm.trans herr)

end Sys2Proof.Machine

/-! PROOFS of the family 70_reset_and_hazards.md: the reset values of R117. -/

namespace Sys2Proof.Machine

/-- `STATUS` is a function of the registers: the inputs to come do not show in it. -/
theorem statusWord_setInputs (s : State) (l : List Input) : statusWord (s.setInputs l) = statusWord s :=
  rfl

/-- `STATUS` as a word is 0x00000000 after reset (R117). -/
theorem statusWord_reset : statusWord State.reset = 0 := by decide

/-- Settles O17: the step answers `State.reset` with the inputs that are left (`step_of_reset`), whatever
was pending or held (R118). Each entry of a register file is the one value it is filled with. -/
theorem resetClearsEveryRegister : Obligations.ResetClearsEveryRegister := by
  intro s rest hinputs
  have hstatus : statusWord (State.reset.setInputs rest) = 0 :=
    (statusWord_setInputs State.reset rest).trans statusWord_reset
  exact ⟨State.reset.setInputs rest, step_of_reset hinputs, rfl, fun i hi => Vector.getElem_replicate hi,
    rfl, rfl, fun j hj => Vector.getElem_replicate hj,
    fun j hj => ⟨Vector.getElem_replicate hj, Vector.getElem_replicate hj⟩, rfl, rfl, hstatus, rfl, rfl⟩

end Sys2Proof.Machine

/-! PROOFS of the family 'other', 30_encoding.md: decoding and encoding undo each other, and which words are
legal (R50 to R58). -/

namespace Sys2Proof

/-! ## The encoder -/

/-- The 32 commands: every constructor with every operand that fits its field (R51 to R53). -/
def legalCommands : List Instr :=
  ([.nop, .encrypt, .decrypt, .load, .store, .subbytes, .invsubbytes, .shiftrows, .invshiftrows,
    .mixcolumns, .invmixcolumns, .xtime] : List Instr) ++
  (List.range 4).map Instr.keysetup ++ (List.range 16).map Instr.addrk

theorem mem_legalCommands_iff (i : Instr) : i ∈ legalCommands ↔ i.WellFormed := by
  cases i <;> simp [legalCommands, Instr.WellFormed, Instr.wellFormed]

/-- The decoder gives back an encoded command (R50, R55). -/
theorem decode_encode {i : Instr} (h : i.WellFormed) : decode (encode i) = .ok i := by
  have hall : ∀ i ∈ legalCommands, decode (encode i) = .ok i := by decide
  exact hall i ((mem_legalCommands_iff i).2 h)

theorem encode_keysetup (klen : Nat) : encode (.keysetup klen) = 0x1 ||| BitVec.ofNat 32 klen <<< 8 := by
  simp [encode, Instr.op, Instr.klenField, Instr.ridxField]

theorem encode_addrk (ridx : Nat) : encode (.addrk ridx) = 0x6 ||| BitVec.ofNat 32 ridx <<< 16 := by
  simp [encode, Instr.op, Instr.klenField, Instr.ridxField]

/-! ## The fields of a word -/

/-- A field of `n` bits at bit `k`, back in its place, is the word under the field's mask. -/
theorem shiftLeft_field (v mask : Word) (k n : Nat)
    (hmask : ∀ i, i < 32 → mask.getLsbD i = decide (k ≤ i ∧ i < k + n)) :
    BitVec.ofNat 32 (v.extractLsb' k n).toNat <<< k = v &&& mask := by
  apply BitVec.eq_of_getLsbD_eq
  intro i hi
  rw [BitVec.getLsbD_and, hmask i hi, BitVec.ofNat_toNat, BitVec.getLsbD_shiftLeft,
    BitVec.getLsbD_setWidth, BitVec.getLsbD_extractLsb']
  by_cases hk : k ≤ i
  · have hfield : i - k < n ↔ i < k + n := by omega
    simp [hi, hk, hfield, Bool.and_comm, show i - k < 32 by omega]
  · simp [hk, show i < k by omega]

theorem shiftLeft_fieldOp (v : Word) : BitVec.ofNat 32 (fieldOp v) = v &&& 0xF :=
  (BitVec.shiftLeft_zero _).symm.trans (shiftLeft_field v 0xF 0 4 (by decide))

theorem shiftLeft_fieldKlen (v : Word) : BitVec.ofNat 32 (fieldKlen v) <<< 8 = v &&& 0x300 :=
  shiftLeft_field v 0x300 8 2 (by decide)

theorem shiftLeft_fieldRidx (v : Word) : BitVec.ofNat 32 (fieldRidx v) <<< 16 = v &&& 0xF0000 :=
  shiftLeft_field v 0xF0000 16 4 (by decide)

theorem fieldKlen_lt (v : Word) : fieldKlen v < 4 := (v.extractLsb' 8 2).isLt

theorem fieldRidx_lt (v : Word) : fieldRidx v < 16 := (v.extractLsb' 16 4).isLt

/-- A word with clear reserved bits is its three fields in their places (R50, R54). -/
theorem eq_fields_of_reservedClear {v : Word} (h : reservedClear v = true) :
    v = BitVec.ofNat 32 (fieldOp v) ||| BitVec.ofNat 32 (fieldKlen v) <<< 8
      ||| BitVec.ofNat 32 (fieldRidx v) <<< 16 := by
  obtain ⟨h4, h10, h20⟩ := (reservedClear_iff v).1 h
  have hm4 : v &&& 0xF0 = 0 := by rw [← shiftLeft_field v 0xF0 4 4 (by decide), h4]; rfl
  have hm10 : v &&& 0xFC00 = 0 := by rw [← shiftLeft_field v 0xFC00 10 6 (by decide), h10]; rfl
  have hm20 : v &&& 0xFFF00000 = 0 := by
    rw [← shiftLeft_field v 0xFFF00000 20 12 (by decide), h20]; rfl
  calc
    v = v &&& (0xF ||| 0x300 ||| 0xF0000 ||| 0xF0 ||| 0xFC00 ||| 0xFFF00000) :=
      BitVec.and_allOnes.symm
    _ = (v &&& 0xF) ||| (v &&& 0x300) ||| (v &&& 0xF0000) := by
      simp only [BitVec.and_or_distrib_left, hm4, hm10, hm20]
      simp only [BitVec.ofNat_eq_ofNat, BitVec.or_zero]
    _ = _ := by rw [shiftLeft_fieldOp, shiftLeft_fieldKlen, shiftLeft_fieldRidx]

/-- The opcode map answers a command whose fields are those it was given (R51, R54). -/
theorem fields_of_decodeOp {op klen ridx : Nat} {i : Instr} (h : decodeOp op klen ridx = .ok i) :
    i.op = op ∧ (i.klenField = if op = 0x1 then klen else 0) ∧
      i.ridxField = if op = 0x6 then ridx else 0 := by
  unfold decodeOp at h
  split at h <;> cases h <;> exact ⟨rfl, rfl, rfl⟩

theorem wellFormed_iff (i : Instr) : i.WellFormed ↔ i.klenField < 4 ∧ i.ridxField < 16 := by
  cases i <;> simp [Instr.WellFormed, Instr.wellFormed, Instr.klenField, Instr.ridxField]

/-- A word that decodes is the encoding of its command (R54, R55). -/
theorem encode_of_decode {v : Word} {i : Instr} (h : decode v = .ok i) : i.WellFormed ∧ encode i = v := by
  obtain ⟨hclear, -, hklen, hridx, hop⟩ := (decode_eq_ok_iff v i).1 h
  obtain ⟨h1, h2, h3⟩ := fields_of_decodeOp hop
  have hk : i.klenField = fieldKlen v := by
    rw [h2]
    split
    · rfl
    · exact (hklen ‹_›).symm
  have hr : i.ridxField = fieldRidx v := by
    rw [h3]
    split
    · rfl
    · exact (hridx ‹_›).symm
  constructor
  · rw [wellFormed_iff, hk, hr]
    exact ⟨fieldKlen_lt v, fieldRidx_lt v⟩
  · rw [encode, h1, hk, hr]
    exact (eq_fields_of_reservedClear hclear).symm

/-- The legal words are the encodings of the commands. -/
theorem decodes_iff_mem_legalWords (v : Word) : (∃ i, decode v = .ok i) ↔ v ∈ legalCommands.map encode := by
  simp only [List.mem_map, mem_legalCommands_iff]
  constructor
  · rintro ⟨i, h⟩
    exact ⟨i, encode_of_decode h⟩
  · rintro ⟨i, hi, rfl⟩
    exact ⟨i, decode_encode hi⟩

/-! ## The rows of the opcode table -/

open Laws.MatchesRow in
/-- The word of a well-formed command matches the command's row. -/
theorem matchesRow_encode : ∀ i, Statement i
  | .nop => nop
  | .keysetup klen => keysetup klen
  | .encrypt => encrypt
  | .decrypt => decrypt
  | .load => load
  | .store => store
  | .addrk ridx => addrk ridx
  | .subbytes => subbytes
  | .invsubbytes => invsubbytes
  | .shiftrows => shiftrows
  | .invshiftrows => invshiftrows
  | .mixcolumns => mixcolumns
  | .invmixcolumns => invmixcolumns
  | .xtime => xtime

/-- The fixed bits of a row and the others are the word. -/
theorem and_or_and_not (v m : Word) : (v &&& m) ||| (v &&& ~~~m) = v := by
  rw [← BitVec.and_or_distrib_left, BitVec.or_not_self, BitVec.and_allOnes]

/-- A word that matches the row of a command is the encoding of a command with that row: where the mask
leaves a field open, the operand is the word's. -/
theorem exists_encode_of_matchesRow {v : Word} {i : Instr} (h : v &&& i.row.mask = i.row.value) :
    ∃ j : Instr, j.WellFormed ∧ encode j = v ∧ j.row = i.row := by
  have hfixed (he : encode i = i.row.value) (hm : i.row.mask = 0xFFFFFFFF) (hi : i.WellFormed) :
      ∃ j : Instr, j.WellFormed ∧ encode j = v ∧ j.row = i.row :=
    ⟨i, hi, by rw [he, ← h, hm]; exact BitVec.and_allOnes, rfl⟩
  cases i with
  | keysetup klen =>
    refine ⟨.keysetup (fieldKlen v), decide_eq_true (fieldKlen_lt v), ?_, rfl⟩
    have hmatch : v &&& 0xFFFFFCFF = 0x1 := h
    calc
      _ = (v &&& 0xFFFFFCFF) ||| (v &&& ~~~0xFFFFFCFF) := by
        rw [encode_keysetup, hmatch, shiftLeft_fieldKlen]
        rfl
      _ = v := and_or_and_not v _
  | addrk ridx =>
    refine ⟨.addrk (fieldRidx v), decide_eq_true (fieldRidx_lt v), ?_, rfl⟩
    have hmatch : v &&& 0xFFF0FFFF = 0x6 := h
    calc
      _ = (v &&& 0xFFF0FFFF) ||| (v &&& ~~~0xFFF0FFFF) := by
        rw [encode_addrk, hmatch, shiftLeft_fieldRidx]
        rfl
      _ = v := and_or_and_not v _
  | nop | encrypt | decrypt | load | store | subbytes | invsubbytes | shiftrows | invshiftrows
  | mixcolumns | invmixcolumns | xtime => exact hfixed (by decide) rfl rfl

/-! ## The obligations -/

/-- Settles O1: the two operands are all that varies, and both are small. -/
theorem encodedCommandsDecodeBack : Obligations.EncodedCommandsDecodeBack := fun _ => decode_encode

/-- Settles O2: the decoder's checks leave no bit of the word outside its three fields. -/
theorem decodedWordsAreEncodings : Obligations.DecodedWordsAreEncodings := fun _ _ => encode_of_decode

/-- Settles O3: matching a row, being the encoding of a command of the row and decoding to one are the
same, so a word that matches two rows decodes to one command with both. -/
theorem decodingAgreesWithTheOpcodeTable : Obligations.DecodingAgreesWithTheOpcodeTable := by
  have hmatch : ∀ (v : Word) (r : OpcodeRow), r ∈ opcodeTable →
      (v &&& r.mask = r.value ↔ ∃ i, decode v = .ok i ∧ i.row = r) := by
    intro v r hr
    obtain ⟨i, -, rfl⟩ := List.mem_map.1 hr
    constructor
    · intro h
      obtain ⟨j, hj, rfl, hrow⟩ := exists_encode_of_matchesRow h
      exact ⟨j, decode_encode hj, hrow⟩
    · rintro ⟨j, hd, hrow⟩
      obtain ⟨hj, rfl⟩ := encode_of_decode hd
      rw [← hrow]
      exact eq_of_beq (matchesRow_encode j hj)
  refine ⟨hmatch, fun v r r' hr hr' h h' => ?_⟩
  obtain ⟨i, hd, rfl⟩ := (hmatch v r hr).1 h
  obtain ⟨i', hd', rfl⟩ := (hmatch v r' hr').1 h'
  cases hd.symm.trans hd'
  rfl

/-- Settles O5: the encodings of the 32 commands, different because they decode to different commands. -/
theorem exactlyThirtyTwoWordsAreLegal : Obligations.ExactlyThirtyTwoWordsAreLegal := by
  refine ⟨legalCommands.map encode, rfl, ?_, decodes_iff_mem_legalWords⟩
  refine List.Nodup.map_on (fun i hi j hj h => ?_) (by decide)
  have hd := decode_encode ((mem_legalCommands_iff i).1 hi)
  rw [h, decode_encode ((mem_legalCommands_iff j).1 hj)] at hd
  exact (Except.ok.inj hd).symm

/-- Settles O6: each word by the decoder's own evaluation. -/
theorem wordsOfTheSpecDecode : Obligations.WordsOfTheSpecDecode := by
  unfold Obligations.WordsOfTheSpecDecode
  decide

end Sys2Proof

/-! PROOFS of the family 'other', the step: what every step keeps (R18 to R20, R25, R42, R55) and what can
stop it (R34, R116). -/

namespace Sys2Proof.Machine

/-! ## The parts of a step -/

/-- The inversion lemma of the core step: nothing is pending, or the pending word's command is discarded
with an error, or its effect is written. -/
theorem coreStep_cases (s : State) :
    (s.pending = none ∧ coreStep s = .next s) ∨
    (∃ e, coreStep s = .next ((raiseErr e s).setPending none)) ∨
    (∃ v i, s.pending = some v ∧ decode v = .ok i ∧ precheck i s = none ∧
      coreStep s = .next ((commandEffect i s).setPending none)) := by
  unfold coreStep
  split
  · exact .inl ⟨‹_›, rfl⟩
  · next v hv =>
    split
    · next i hd =>
      obtain ⟨e, -, h⟩ | ⟨hc, h⟩ := exec_cases i s
      · exact .inr (.inl ⟨e, congrArg retire h⟩)
      · exact .inr (.inr ⟨v, i, hv, hd, hc, congrArg retire h⟩)
    · exact .inr (.inl ⟨.illegalCmd, rfl⟩)

/-- No write of a register changes the schedule (R36). -/
theorem writeReg_schedule (r : Reg) (v : Word) (s : State) :
    (writeReg r v s).rk = s.rk ∧ (writeReg r v s).nr = s.nr ∧
      (writeReg r v s).keyValid = s.keyValid := by
  cases r with
  | ctrl => obtain ⟨e, h⟩ | ⟨i, -, -, h⟩ := issue_cases v s <;> simp [writeReg, h]
  | status => obtain ⟨-, h⟩ | ⟨-, h⟩ := writeStatus_cases v s <;> simp [writeReg, h]
  | key | din | dout => exact ⟨rfl, rfl, rfl⟩

/-- No access changes the schedule (R36). -/
theorem performAccess_schedule {a : Access} {s t : State} (h : performAccess a s = .next t) :
    t.rk = s.rk ∧ t.nr = s.nr ∧ t.keyValid = s.keyValid := by
  obtain ⟨-, e⟩ | ⟨r, -, -, e⟩ | ⟨r, -, -, e⟩ := performAccess_cases a s <;> rw [e] at h <;> cases h
  · exact writeReg_schedule r a.wdata s
  · exact ⟨rfl, rfl, rfl⟩

/-- A KEYSETUP that passes its check has a recognized key length and installs a schedule (R94). -/
theorem keysetup_of_precheck {klen : Nat} {s : State} (h : precheck (.keysetup klen) s = none) :
    ∃ nk nr, klen < 3 ∧
      commandEffect (.keysetup klen) s = installSchedule nk nr s := by
  match klen with
  | 0 => exact ⟨4, 10, by decide, rfl⟩
  | 1 => exact ⟨6, 12, by decide, rfl⟩
  | 2 => exact ⟨8, 14, by decide, rfl⟩
  | n + 3 => cases h

/-! ## The invariant -/

section

variable {s t : State}

theorem errorNumber_legal (e : ErrorCode) :
    1 ≤ (errorNumber e).toNat ∧ (errorNumber e).toNat ≤ 4 := by
  cases e <;> decide

/-- Raising an error keeps the error code legal (R25, R102). -/
theorem errorLegal.raiseErr (h : errorLegal s) (e : ErrorCode) : errorLegal (raiseErr e s) := by
  obtain ⟨-, hr⟩ | ⟨-, hr⟩ := raiseErr_cases e s <;> rw [hr]
  · exact h
  · exact .inr ⟨rfl, errorNumber_legal e⟩

theorem scheduleLegal.raiseErr (h : scheduleLegal s) (e : ErrorCode) :
    scheduleLegal (raiseErr e s) := by
  simpa only [scheduleLegal, raiseErr_rk, raiseErr_nr, raiseErr_keyValid] using h

/-- The key registers hold the words of every key length (R21). -/
theorem length_keyWords {klen nk nr : Nat} (h : keyParams klen = some (nk, nr)) (s : State) :
    (keyWords s nk).length = nk := by
  have hnk : nk ≤ 8 := by
    match klen with
    | 0 | 1 | 2 => cases h; decide
  simpa [keyWords] using hnk

/-- An effect keeps the error code legal, which it does not write. -/
theorem errorLegal.effect (h : errorLegal s) (hst : Effect s t) : errorLegal t := by
  obtain ⟨-, -, herr, hcode, -⟩ := hst.frame
  rwa [errorLegal, herr, hcode]

/-- An effect keeps the schedule, or installs that of a key (R94). -/
theorem scheduleLegal.effect (h : scheduleLegal s) (hst : Effect s t) : scheduleLegal t := by
  cases hst with
  | nothing | block | output | both => exact h
  | schedule klen nk nr hk =>
    exact .inr ⟨rfl, klen, nk, nr, keyWords s nk, hk, length_keyWords hk s, rfl, rfl⟩

/-- With nothing pending the pending word is legal. -/
theorem pendingLegal_of_none (h : s.pending = none) : pendingLegal s := by
  intro v hv
  rw [h] at hv
  cases hv

/-- The error action keeps the invariant: no check reads `ERR`. -/
theorem State.Inv.raiseErr (h : s.Inv) (e : ErrorCode) : (raiseErr e s).Inv := by
  obtain ⟨herr, hsched, hpend, hreq⟩ := h
  refine ⟨herr.raiseErr e, hsched.raiseErr e, fun v hv => ?_, fun a ha => hreq a ?_⟩
  · rw [raiseErr_pending] at hv
    obtain ⟨i, hd, hc⟩ := hpend v hv
    exact ⟨i, hd, (precheck_congr i (raiseErr_keyValid e s) (raiseErr_nr e s)).trans hc⟩
  · rwa [raiseErr_request] at ha

/-- The completion keeps the invariant (R116). -/
theorem State.Inv.coreStep (h : s.Inv) (ht : coreStep s = .next t) : t.Inv := by
  obtain ⟨herr, hsched, -, hreq⟩ := h
  obtain ⟨u, hu, hpend, hrequest, -⟩ := coreStep_completes s
  obtain rfl : u = t := by cases hu.symm.trans ht; rfl
  have hregs : errorLegal u ∧ scheduleLegal u := by
    obtain ⟨-, hc⟩ | ⟨e, hc⟩ | ⟨v, i, -, -, -, hc⟩ := coreStep_cases s <;> rw [hc] at ht <;> cases ht
    · exact ⟨herr, hsched⟩
    · exact ⟨herr.raiseErr e, hsched.raiseErr e⟩
    · have herr' := herr.effect (effect_commandEffect i s)
      have hsched' := hsched.effect (effect_commandEffect i s)
      exact ⟨herr', hsched'⟩
  exact ⟨hregs.1, hregs.2, pendingLegal_of_none hpend, fun a ha => hreq a (hrequest ▸ ha)⟩

/-- A register write keeps the invariant: a word that becomes pending has passed its checks (R55). -/
theorem State.Inv.writeReg (h : s.Inv) (r : Reg) (v : Word) : (writeReg r v s).Inv := by
  cases r with
  | ctrl =>
    obtain ⟨e, hi⟩ | ⟨i, hd, hc, hi⟩ := issue_cases v s <;> rw [Machine.writeReg, hi]
    · exact h.raiseErr e
    · obtain ⟨herr, hsched, -, hreq⟩ := h
      exact ⟨herr, hsched, fun w hw => ⟨i, by cases hw; exact hd, hc⟩, hreq⟩
  | status =>
    obtain ⟨-, hw⟩ | ⟨-, hw⟩ := writeStatus_cases v s <;> rw [Machine.writeReg, hw]
    · exact ⟨.inl ⟨rfl, rfl⟩, h.2⟩
    · exact h
  | key | din | dout => exact h

theorem State.Inv.performAccess (h : s.Inv) {a : Access} (ht : performAccess a s = .next t) :
    t.Inv := by
  obtain ⟨-, e⟩ | ⟨r, -, -, e⟩ | ⟨r, -, -, e⟩ := performAccess_cases a s <;> rw [e] at ht <;> cases ht
  · exact h.writeReg r a.wdata
  · exact h

/-- The port may hold nothing, or an access that is no legal `STATUS` access (R42). -/
theorem State.Inv.setRequest (h : s.Inv) {r : Option Access}
    (hr : ∀ a, r = some a → accessReg a ≠ some .status) : (s.setRequest r).Inv := by
  obtain ⟨herr, hsched, hpend, -⟩ := h
  exact ⟨herr, hsched, hpend, hr⟩

end

/-- Reset meets the invariant (R117). -/
theorem inv_reset : State.reset.Inv :=
  ⟨.inl ⟨rfl, rfl⟩, .inl ⟨rfl, rfl, rfl⟩, pendingLegal_of_none rfl, nofun⟩

/-- Settles O18: every clause holds of `State.reset` by its fields (R117). -/
theorem resetStateIsLegal : Obligations.ResetStateIsLegal := inv_reset

/-- Settles O19: each move of R116 keeps the invariant; an access is taken into the hold only if it is no
legal `STATUS` access. -/
theorem stepKeepsTheMachineLegal : Obligations.StepKeepsTheMachineLegal := by
  intro s t h ht
  obtain ⟨rest, -, hstep⟩ | ⟨-, hway⟩ := step_cases s
  · rw [hstep] at ht
    cases ht
    exact inv_reset
  · obtain ⟨l, -, -, hstep⟩ | ⟨a, l, -, -, hstep⟩ | ⟨r, l, hr, hstep⟩ := hway <;> rw [hstep] at ht
    · exact State.Inv.coreStep (s := (s.setInputs l).setResponse none) h ht
    · exact State.Inv.performAccess (s := ((s.setRequest none).setInputs l).setResponse none)
        (h.setRequest nofun) ht
    · cases ht
      refine State.Inv.setRequest h fun a ha => ?_
      obtain ⟨-, -, -, hreq⟩ := h
      obtain ⟨hsame, -⟩ | ⟨b, hb, hstatus, -⟩ := hr
      · exact hreq a (hsame ▸ ha)
      · rw [Ne, accessReg_eq_status_iff]
        cases hb.symm.trans ha
        exact hstatus

/-! ## What stops a step, and what changes the schedule -/

/-- Settles O16: a completion always answers a next state, and an access performed while a command is
pending is a legal access to `STATUS`. -/
theorem onlyIllegalAccessesStopTheMachine : Obligations.OnlyIllegalAccessesStopTheMachine := by
  refine ⟨fun i s => ?command, fun s => ?step⟩
  case command => obtain ⟨e, -, h⟩ | ⟨-, h⟩ := exec_cases i s <;> exact ⟨_, h⟩
  case step =>
    obtain ⟨rest, -, hstep⟩ | ⟨-, hway⟩ := step_cases s
    · exact .inl ⟨_, hstep⟩
    · obtain ⟨l, -, -, hstep⟩ | ⟨a, l, hfree, hfrom, hstep⟩ | ⟨r, l, -, hstep⟩ := hway <;> rw [hstep]
      · obtain ⟨t, ht, -⟩ := coreStep_completes ((s.setInputs l).setResponse none)
        exact .inl ⟨t, ht⟩
      · obtain ⟨hnone, h⟩ | ⟨r, -, -, h⟩ | ⟨r, -, -, h⟩ :=
          performAccess_cases a (((s.setRequest none).setInputs l).setResponse none)
        · have hillegal : ¬ LegalAccess a := (accessReg_eq_none_iff a).1 hnone
          have hp : s.pending = none := hfree.resolve_right fun hs => hillegal hs.legal
          exact .inr ⟨hp, a, hfrom.imp And.left fun ha => ⟨l, ha⟩, hillegal, h⟩
        · exact .inl ⟨_, h⟩
        · exact .inl ⟨_, h⟩
      · exact .inl ⟨_, rfl⟩

/-- Settles O22: of the moves only the completion writes the schedule, and of the effects only KEYSETUP's,
whose check has found a recognized key length. -/
theorem onlyKeysetupChangesTheSchedule : Obligations.OnlyKeysetupChangesTheSchedule := by
  intro s t ht hreset
  obtain ⟨rest, hi, -⟩ | ⟨-, hway⟩ := step_cases s
  · exact absurd (congrArg List.head? hi) hreset
  · obtain ⟨l, -, -, hstep⟩ | ⟨a, l, -, -, hstep⟩ | ⟨r, l, -, hstep⟩ := hway <;> rw [hstep] at ht
    · obtain ⟨-, hc⟩ | ⟨e, hc⟩ | ⟨v, i, hv, hd, hcheck, hc⟩ :=
        coreStep_cases ((s.setInputs l).setResponse none) <;> rw [hc] at ht <;> cases ht
      · exact .inl ⟨rfl, rfl, rfl⟩
      · exact .inl (by simp)
      · obtain ⟨klen, rfl⟩ | hkeeps := commandEffect_schedule i ((s.setInputs l).setResponse none)
        · obtain ⟨nk, nr, hlt, heffect⟩ := keysetup_of_precheck hcheck
          exact .inr ⟨by rw [heffect]; rfl, rfl, v, klen, hv, hd, hlt⟩
        · exact .inl hkeeps
    · have hkeeps := performAccess_schedule ht
      exact .inl hkeeps
    · cases ht
      exact .inl ⟨rfl, rfl, rfl⟩

end Sys2Proof.Machine

/-! PROOFS of the family 'other', the bus and whole runs: what accesses answer (R25, R31, R32), the hold (R42),
and how a pending command completes (R116, R126). -/

namespace Sys2Proof.Machine

/-! ## Reads and fields -/

/-- Settles O13: each offset names its register, and a presented read answers that register's value. -/
theorem readsReturnTheMappedRegisters : Obligations.ReadsReturnTheMappedRegisters := by
  intro s rest d hp answers
  exact ⟨fun ha => step_reads hp ha (accessReg_ctrl false d) rfl,
    fun ha => step_reads hp ha (accessReg_status false d) rfl,
    fun j hj ha => step_reads hp ha (accessReg_key false d hj) rfl,
    fun j hj ha => step_reads hp ha (accessReg_din false d hj) rfl,
    fun j hj ha => step_reads hp ha (accessReg_dout false d hj) rfl⟩

/-- A concatenation as a number. -/
theorem toNat_append_eq_add {m n : Nat} (x : BitVec m) (y : BitVec n) :
    (x ++ y).toNat = x.toNat * 2 ^ n + y.toNat := by
  rw [BitVec.toNat_append, ← Nat.shiftLeft_add_eq_or_of_lt y.isLt, Nat.shiftLeft_eq]

/-- `STATUS` as the sum of its fields (R25). -/
theorem toNat_statusWord (s : State) :
    (statusWord s).toNat = s.nr.toNat * 0x100 + s.errcode.toNat * 0x10 + s.err.toNat * 4 +
      s.keyValid.toNat * 2 + s.pending.isSome.toNat := by
  simp only [statusWord, toNat_append_eq_add, BitVec.toNat_ofBool, busy, BitVec.ofNat_eq_ofNat,
    BitVec.toNat_ofNat, Nat.zero_mod]
  omega

theorem getLsbD_eq_of_toNat {v : Word} {i : Nat} {b : Bool} (h : v.toNat / 2 ^ i % 2 = b.toNat) :
    v.getLsbD i = b := by
  rw [BitVec.getLsbD, Nat.testBit_eq_decide_div_mod_eq, h]
  cases b <;> rfl

theorem extractLsb'_eq_of_toNat {v : Word} {k n : Nat} {f : BitVec n}
    (h : v.toNat / 2 ^ k % 2 ^ n = f.toNat) : v.extractLsb' k n = f :=
  BitVec.eq_of_toNat_eq (by rw [BitVec.extractLsb'_toNat, Nat.shiftRight_eq_div_pow, h])

/-- Settles O14: each field is read off the sum, in which no field reaches the place of the next. -/
theorem statusWordHoldsTheFields : Obligations.StatusWordHoldsTheFields := by
  intro s w
  have hsum : w.toNat = _ := toNat_statusWord s
  have hnr := s.nr.isLt
  have hcode := s.errcode.isLt
  have herr := s.err.toNat_le
  have hvalid := s.keyValid.toNat_le
  have hbusy := s.pending.isSome.toNat_le
  have hfalse : false.toNat = 0 := rfl
  have hzero : (0 : BitVec 20).toNat = 0 := rfl
  refine ⟨getLsbD_eq_of_toNat ?_, getLsbD_eq_of_toNat ?_, getLsbD_eq_of_toNat ?_, getLsbD_eq_of_toNat ?_,
    extractLsb'_eq_of_toNat ?_, extractLsb'_eq_of_toNat ?_, extractLsb'_eq_of_toNat ?_, hsum⟩
  all_goals
    rw [hsum]
    omega

/-- Settles O15: an offset is a byte, so it stays within the 0x100 bytes. -/
theorem windowSitsAtBase : Obligations.WindowSitsAtBase := by
  refine ⟨?aligned, fun offset wr be d => ?inside, fun addr wr be d h => if_neg (by omega)⟩
  case aligned =>
    have hbase : Config.base = Config.basePage * 0x100 := rfl
    omega
  case inside =>
    have hlt := offset.isLt
    rw [windowAccess, if_pos ⟨by omega, by omega⟩, Nat.add_sub_cancel_left, BitVec.ofNat_toNat,
      BitVec.setWidth_eq]

/-! ## The completion -/

/-- While a command is pending and an access held that is no `STATUS` access, any step but a reset is the
core's (R42; log 2). -/
theorem step_completes_of_held {s : State} {a : Access} (hp : s.pending ≠ none)
    (hr : s.request = some a) (hs : ¬ StatusAccess a) (hreset : s.inputs.head? ≠ some .reset) :
    ∃ l, (l = s.inputs ∨ s.inputs = .coreTurn :: l) ∧
      step s = coreStep ((s.setInputs l).setResponse none) := by
  obtain ⟨rest, hi, -⟩ | ⟨-, ⟨l, -, hl, hstep⟩ | ⟨b, l, hfree, hfrom, -⟩ | ⟨r, l, hidle, -⟩⟩ :=
    step_cases s
  · exact absurd (congrArg List.head? hi) hreset
  · exact ⟨l, hl, hstep⟩
  · have hb : StatusAccess b := hfree.resolve_left hp
    obtain ⟨hheld, -⟩ | ⟨hnone, -⟩ := hfrom
    · cases hr.symm.trans hheld
      exact absurd hb hs
    · cases hr.symm.trans hnone
  · obtain ⟨-, hnone⟩ | ⟨b, -, -, -, hnone, -⟩ := hidle
    · exact absurd hnone hp
    · cases hr.symm.trans hnone

/-- Settles O7: in each of the three situations the step is the core step. -/
theorem coreStepRunsThePendingCommand : Obligations.CoreStepRunsThePendingCommand := by
  intro s v i hv hd
  have hp : s.pending ≠ none := by rw [hv]; exact Option.some_ne_none v
  refine ⟨fun rest hi => ?turn, fun hi => ?quiet, fun a b rest hr hs hi => ?held⟩
  case turn => rw [step_coreTurn hi hp]; exact coreStep_runs hv hd
  case quiet => rw [step_quiet hi hp]; exact coreStep_runs hv hd
  case held => rw [step_lifts hr hs hi hp]; exact coreStep_runs hv hd

/-- Settles O8: the placed word is pending and the core has the turn. -/
theorem fetchedWordIsRun : Obligations.FetchedWordIsRun := by
  intro s w i hw
  have hmod : BitVec.ofNat 32 (w % 2 ^ 32) = BitVec.ofNat 32 w :=
    BitVec.eq_of_toNat_eq (Nat.mod_mod w _)
  have hd : decode (BitVec.ofNat 32 w) = .ok i := by
    unfold decodeTableWord at hw
    rw [hmod] at hw
    split at hw <;> cases hw
    assumption
  rw [State.withFetchWord, hmod, step_coreTurn rfl (Option.some_ne_none _)]
  exact coreStep_runs rfl hd

/-! ## The hold -/

theorem performAccess_of_illegal {a : Access} (h : ¬ LegalAccess a) (s : State) :
    performAccess a s = .fault (.busError (errorResponse a)) := by
  simp only [performAccess, (accessReg_eq_none_iff a).2 h]

theorem performAccess_of_legal {a : Access} (h : LegalAccess a) (s : State) :
    ∃ t, performAccess a s = .next t := by
  obtain ⟨hnone, -⟩ | ⟨r, -, -, ht⟩ | ⟨r, -, -, ht⟩ := performAccess_cases a s
  · exact absurd h ((accessReg_eq_none_iff a).1 hnone)
  · exact ⟨_, ht⟩
  · exact ⟨_, ht⟩

theorem performAccess_of_read {a : Access} {r : Reg} (hr : accessReg a = some r) (hw : a.write = false)
    (s : State) : performAccess a s = .next (s.setResponse (some (.read (readReg r s)))) := by
  simp [performAccess, hr, hw]

/-- A presented read of `STATUS` is answered at once, also while a command is pending (R42). -/
theorem step_reads_status {s : State} {d : Word} {rest : List Input}
    (ha : Presents s (read32 0x04 d) rest) :
    step s = .next ((s.setInputs rest).setResponse (some (.read (statusWord s)))) := by
  have hreg : accessReg (read32 0x04 d) = some .status := accessReg_status false d
  rw [step_performs ha (.inr ⟨rfl, rfl⟩), performAccess, hreg]
  rfl

/-- `BUSY` is bit 0 of `STATUS` (R25). -/
theorem statusWord_busy (s : State) : (statusWord s).getLsbD 0 = s.pending.isSome := by
  obtain ⟨hbusy, -⟩ := statusWordHoldsTheFields s
  exact hbusy

/-- Settles O10: the hold, the completion with the access still held, the held access performed after it,
and the two `STATUS` accesses, which do not wait. -/
theorem accessesAreHeldWhileBusy : Obligations.AccessesAreHeldWhileBusy := by
  intro s hp
  refine ⟨fun a rest ha hs => step_holds ha hp hs, fun a hr hs hreset => ?completes, fun d rest ha => ?read,
    fun v rest ha => ?write⟩
  case completes =>
    obtain ⟨l, hl, hstep⟩ := step_completes_of_held hp hr hs hreset
    obtain ⟨t, ht, hpend, hreq, hresp, hin⟩ := coreStep_completes ((s.setInputs l).setResponse none)
    have hin : t.inputs = l := hin
    have hreq : t.request = some a := hreq.trans hr
    refine ⟨t, hstep.trans ht, hpend, hreq, hresp, hin ▸ hl, fun hnext => ?_⟩
    obtain ⟨rest, hrest, hperf⟩ := step_performs_held hreq hpend hnext
    refine ⟨fun hillegal => hperf.trans (performAccess_of_illegal hillegal _), fun hlegal => ?_⟩
    obtain ⟨u, hu⟩ :=
      performAccess_of_legal hlegal (((t.setRequest none).setInputs rest).setResponse none)
    exact ⟨u, rest, hperf, hperf.trans hu, hrest⟩
  case read =>
    refine ⟨statusWord s, ?_, rfl, step_reads_status ha⟩
    rw [statusWord_busy, Option.isSome_iff_ne_none]
    exact hp
  case write =>
    rw [step_writes_status ha, writeStatus, clearsError]
    split <;> rfl

/-! ## Runs -/

/-- A run of `k + 1` steps is a step and a run of `k`. -/
theorem run_succ {s t : State} (k : Nat) (h : step s = .next t) :
    Sys2Proof.core.run (k + 1) s = Sys2Proof.core.run k t := by
  have h' : Sys2Proof.core.step s = .next t := h
  simp only [Host.Core.run, h']

theorem run_one {s t : State} (h : step s = .next t) : Sys2Proof.core.run 1 s = .next t := run_succ 0 h

/-- Any number of `STATUS` reads before the core's turn leave the completion as it is. -/
theorem run_polls {s t : State} {d : Word} {rest : List Input} (n : Nat) (hp : s.pending ≠ none)
    (hr : s.request = none)
    (hi : s.inputs = List.replicate n (Input.access (read32 0x04 d)) ++ Input.coreTurn :: rest)
    (ht : coreStep ((s.setInputs rest).setResponse none) = .next t) :
    Sys2Proof.core.run (n + 1) s = .next t := by
  induction n generalizing s with
  | zero => exact run_one ((step_coreTurn hi hp).trans ht)
  | succ n ih =>
    rw [run_succ (n + 1) (step_reads_status ⟨hr, hi⟩)]
    exact ih hp hr rfl ht

/-- A presented write to `CTRL` of a command that passes its checks makes it pending (R55, R104). -/
theorem step_issues {s : State} {v : Word} {i : Instr} {rest : List Input} (hp : s.pending = none)
    (hd : decode v = .ok i) (hc : precheck i s = none) (ha : Presents s (write32 0x00 v) rest) :
    step s = .next (((s.setInputs rest).setResponse (some .written)).setPending (some v)) := by
  rw [step_writes hp ha (accessReg_ctrl true v) rfl]
  have hc' : precheck i ((s.setInputs rest).setResponse (some .written)) = none :=
    (precheck_congr i rfl rfl).trans hc
  exact congrArg _ (issue_of_passed hd hc')

/-- No effect reads or writes the pending word. -/
theorem commandEffect_setPending (i : Instr) (s : State) (p : Option Word) :
    commandEffect i (s.setPending p) = (commandEffect i s).setPending p := by
  cases i with
  | keysetup klen =>
    simp only [commandEffect, keysetupEffect]
    cases keyParams klen <;> rfl
  | nop | encrypt | decrypt | load | store | addrk _ | subbytes | invsubbytes | shiftrows
  | invshiftrows | mixcolumns | invmixcolumns | xtime => rfl

theorem setPending_eq_self {s : State} {p : Option Word} (h : s.pending = p) :
    s.setPending p = s := by
  rw [← h]
  rfl

/-- A command that passes its checks answers its effect. -/
theorem exec_of_passed {i : Instr} {s : State} (hc : precheck i s = none) :
    exec i s = .next (commandEffect i s) :=
  (exec_eq i s).trans (runChecked_of_none hc _)

/-- A command made pending and completed leaves its effect and nothing pending (R116). -/
theorem coreStep_setPending {i : Instr} {s : State} {v : Word} (hp : s.pending = none)
    (hd : decode v = .ok i) (hc : precheck i s = none) :
    coreStep (s.setPending (some v)) = .next (commandEffect i s) := by
  have hc' : precheck i (s.setPending (some v)) = none := (precheck_congr i rfl rfl).trans hc
  have hpend : (commandEffect i s).pending = none := by
    obtain ⟨-, -, -, -, hsame, -⟩ := (effect_commandEffect i s).frame
    exact hsame.trans hp
  rw [coreStep_of_decode rfl hd, exec_of_passed hc', commandEffect_setPending, retire_next]
  exact congrArg _ (setPending_eq_self hpend)

/-- Settles O23: the write makes the word pending, the polls leave the completion as it is, and no effect
reads the pending word. -/
theorem issuedCommandCompletesWithItsEffect : Obligations.IssuedCommandCompletesWithItsEffect := by
  intro s t v d i n rest hp hd hc ha ht
  have hc' : precheck i ((s.setInputs rest).setResponse none) = none := (precheck_congr i rfl rfl).trans hc
  have ht' : t = commandEffect i ((s.setInputs rest).setResponse none) := by
    cases ht.symm.trans (exec_of_passed hc')
    rfl
  rw [run_succ (n + 1) (step_issues hp hd hc ha), ht']
  exact run_polls n (Option.some_ne_none v) ha.1 rfl
    (coreStep_setPending (s := (s.setInputs rest).setResponse none) hp hd hc')

/-- Settles O25: the write is issued, the read is held, the core completes ENCRYPT since nothing more is to
come, and the held read is performed. -/
theorem readAfterEncryptReturnsTheCiphertext : Obligations.ReadAfterEncryptReturnsTheCiphertext := by
  intro s j hj d hp hk ha
  have hdecode : decode 0x00000002 = .ok .encrypt := by decide
  have hcheck : precheck .encrypt s = none := by
    simp only [precheck, hk, Bool.true_eq_false, if_false]
  let a := read32 (BitVec.ofNat 8 (0x40 + 4 * j)) d
  have hreg : accessReg a = some (.dout ⟨j, hj⟩) := accessReg_dout false d hj
  have hstatus : ¬ StatusAccess a := by
    rw [← accessReg_eq_status_iff, hreg]
    simp
  let issued := ((s.setInputs [.access a]).setResponse (some .written)).setPending (some 0x00000002)
  let u := ((s.setRequest (some a)).setInputs []).setResponse none
  let held := u.setPending (some 0x00000002)
  have hissue : step s = .next issued := step_issues hp hdecode hcheck ha
  have hhold : step issued = .next held := step_holds ⟨ha.1, rfl⟩ (Option.some_ne_none _) hstatus
  have hcore : coreStep held = .next (commandEffect .encrypt u) :=
    coreStep_setPending hp hdecode ((precheck_congr .encrypt rfl rfl).trans hcheck)
  obtain ⟨t, hcomplete, hpend, hreq, hinputs, hdout⟩ : ∃ t, step held = .next t ∧ t.pending = none ∧
      t.request = some a ∧ t.inputs = [] ∧ t.dout = doutWords (cipher (dinBlock s.din) s.rk s.nr.toNat) :=
    ⟨_, (step_quiet rfl (Option.some_ne_none _)).trans hcore, hp, rfl, rfl, rfl⟩
  obtain ⟨rest, -, hperform⟩ := step_performs_held hreq hpend (by rw [hinputs]; nofun)
  rw [performAccess_of_read hreg rfl] at hperform
  have hrun : Sys2Proof.core.run 4 s = Sys2Proof.core.run 1 t :=
    (run_succ 3 hissue).trans ((run_succ 2 hhold).trans (run_succ 1 hcomplete))
  refine ⟨_, hrun.trans (run_one hperform), ?_⟩
  change some (BusResponse.read t.dout[j]) = _
  rw [hdout]

/-! ## Every command completes -/

/-- `u` is `s` but for `ERR`, `ERRCODE`, the bus port and the inputs. -/
def SameButPort (s u : State) : Prop :=
  ∃ e c r q l, u = (((s.setErr e c).setRequest r).setResponse q).setInputs l

theorem SameButPort.trans {s t u : State} (hst : SameButPort s t) (htu : SameButPort t u) :
    SameButPort s u := by
  obtain ⟨e, c, r, q, l, rfl⟩ := hst
  obtain ⟨e', c', r', q', l', rfl⟩ := htu
  exact ⟨e', c', r', q', l', rfl⟩

theorem SameButPort.pending {s u : State} (h : SameButPort s u) : u.pending = s.pending := by
  obtain ⟨e, c, r, q, l, rfl⟩ := h
  rfl

/-- The next step is a reset or the completion. -/
def EndsPending (s : State) : Prop :=
  s.inputs.head? = some .reset ∨ ∃ l, step s = coreStep ((s.setInputs l).setResponse none)

/-- A step with a command pending ends that, or performs a `STATUS` access, or takes an access into the hold.
Of the last two each takes an input, but for a `STATUS` access that was held, which no reachable state has. -/
theorem step_while_pending {s : State} (hp : s.pending ≠ none) :
    EndsPending s ∨ ∃ t, step s = .next t ∧ SameButPort s t ∧ t.inputs <:+ s.inputs ∧ requestLegal t ∧
      (requestLegal s → t.inputs.length < s.inputs.length) := by
  obtain ⟨rest, hi, -⟩ | ⟨-, ⟨l, -, -, hstep⟩ | ⟨a, l, hfree, hfrom, hstep⟩ | ⟨r, l, hidle, hstep⟩⟩ :=
    step_cases s
  · exact .inl (.inl (congrArg List.head? hi))
  · exact .inl (.inr ⟨l, hstep⟩)
  · have hstatus : StatusAccess a := hfree.resolve_left hp
    obtain ⟨t, ht, hsame⟩ :=
      performAccess_status hstatus (((s.setRequest none).setInputs l).setResponse none)
    have htl : t.inputs = l := by rw [hsame]; rfl
    have htr : t.request = none := by rw [hsame]; rfl
    refine .inr ⟨t, hstep.trans ht, ⟨t.err, t.errcode, none, t.response, l, hsame⟩, ?_, ?_, ?_⟩
    · rw [htl]
      obtain ⟨-, rfl | hl⟩ | ⟨-, hl⟩ := hfrom
      · exact List.suffix_rfl
      · exact hl ▸ List.suffix_cons _ _
      · exact hl ▸ List.suffix_cons _ _
    · intro b hb
      cases htr.symm.trans hb
    · intro hlegal
      obtain ⟨hheld, -⟩ | ⟨-, hl⟩ := hfrom
      · exact absurd ((accessReg_eq_status_iff a).2 hstatus) (hlegal a hheld)
      · rw [htl, hl]
        exact Nat.lt_succ_self _
  · obtain ⟨-, hnone⟩ | ⟨a, rfl, hstatus, -, -, hl⟩ := hidle
    · exact absurd hnone hp
    · refine .inr ⟨_, hstep, ⟨s.err, s.errcode, some a, none, l, rfl⟩, hl ▸ List.suffix_cons _ _, ?_, ?_⟩
      · intro b hb
        cases hb
        rwa [Ne, accessReg_eq_status_iff]
      · intro _
        rw [hl]
        exact Nat.lt_succ_self _

/-- `k` steps lead to a state in which the same command is pending and the next step ends that. -/
def EndsAfter (k : Nat) (s : State) : Prop :=
  ∃ u, Sys2Proof.core.run k s = .next u ∧ SameButPort s u ∧ u.inputs <:+ s.inputs ∧ EndsPending u

theorem endsAfter_zero {s : State} (h : EndsPending s) : EndsAfter 0 s :=
  ⟨s, rfl, ⟨_, _, _, _, _, rfl⟩, List.suffix_rfl, h⟩

theorem EndsAfter.succ {s t : State} {k : Nat} (h : EndsAfter k t) (hstep : step s = .next t)
    (hsame : SameButPort s t) (hsuffix : t.inputs <:+ s.inputs) : EndsAfter (k + 1) s := by
  obtain ⟨u, hrun, htu, hu, hends⟩ := h
  exact ⟨u, (run_succ k hstep).trans hrun, hsame.trans htu, hu.trans hsuffix, hends⟩

/-- With no `STATUS` access held, each step before the last takes an input. -/
theorem endsAfter_of_requestLegal (n : Nat) {s : State} (hp : s.pending ≠ none) (hr : requestLegal s)
    (hn : s.inputs.length ≤ n) : ∃ k ≤ n, EndsAfter k s := by
  induction n generalizing s with
  | zero =>
    obtain h | ⟨t, -, -, -, -, hlt⟩ := step_while_pending hp
    · exact ⟨0, le_rfl, endsAfter_zero h⟩
    · exact absurd (hlt hr) (by omega)
  | succ n ih =>
    obtain h | ⟨t, ht, hsame, hsuffix, hlegal, hlt⟩ := step_while_pending hp
    · exact ⟨0, Nat.zero_le _, endsAfter_zero h⟩
    · have hless := hlt hr
      obtain ⟨k, hk, hends⟩ := ih (hsame.pending ▸ hp) hlegal (by omega)
      exact ⟨k + 1, by omega, hends.succ ht hsame hsuffix⟩

theorem exists_endsAfter {s : State} (hp : s.pending ≠ none) :
    ∃ k ≤ s.inputs.length + 1, EndsAfter k s := by
  obtain h | ⟨t, ht, hsame, hsuffix, hlegal, -⟩ := step_while_pending hp
  · exact ⟨0, Nat.zero_le _, endsAfter_zero h⟩
  · obtain ⟨k, hk, hends⟩ := endsAfter_of_requestLegal _ (hsame.pending ▸ hp) hlegal hsuffix.length_le
    exact ⟨k + 1, by omega, hends.succ ht hsame hsuffix⟩

theorem run_succ_of_run {s u t : State} {k : Nat} (hrun : Sys2Proof.core.run k s = .next u)
    (hstep : step u = .next t) : Sys2Proof.core.run (k + 1) s = .next t := by
  induction k generalizing s with
  | zero =>
    cases hrun
    exact run_one hstep
  | succ k ih =>
    simp only [Host.Core.run] at hrun
    split at hrun
    · next s' hs => exact (run_succ (k + 1) hs).trans (ih hrun)
    · cases hrun
    · cases hrun

/-- The step that ends a pending command leaves none pending. -/
theorem EndsPending.step {s : State} (h : EndsPending s) : ∃ t, step s = .next t ∧ t.pending = none := by
  obtain hreset | ⟨l, hcore⟩ := h
  · obtain ⟨rest, hi⟩ := List.head?_eq_some_iff.1 hreset
    exact ⟨_, step_of_reset hi, rfl⟩
  · obtain ⟨t, ht, hpend, -⟩ := coreStep_completes ((s.setInputs l).setResponse none)
    exact ⟨t, hcore.trans ht, hpend⟩

/-- Settles O24: no input lets a pending command wait for longer than itself (`exists_endsAfter`). -/
theorem everyCommandCompletes : Obligations.EveryCommandCompletes := by
  refine ⟨fun s v i hv hd hreset => ?completes, fun s => ?idle⟩
  case completes =>
    obtain ⟨k, hk, u, hrun, hsame, hsuffix, hends⟩ := exists_endsAfter (hv ▸ Option.some_ne_none v)
    obtain hhead | ⟨l, hcore⟩ := hends
    · exact absurd (hsuffix.subset (List.mem_of_head? hhead)) hreset
    · have huv : ((u.setInputs l).setResponse none).pending = some v := hsame.pending.trans hv
      obtain ⟨t, ht, hcompletes⟩ := coreStep_runs huv hd
      obtain ⟨t', ht', -, -, -, hinputs⟩ := coreStep_completes ((u.setInputs l).setResponse none)
      cases ht.symm.trans ht'
      refine ⟨k, u, t, hk, hrun, ?_, hcore.trans ht, hinputs ▸ hcompletes⟩
      obtain ⟨e, c, r, q, l', rfl⟩ := hsame
      rfl
  case idle =>
    by_cases hp : s.pending = none
    · exact ⟨0, s, Nat.zero_le _, rfl, hp⟩
    · obtain ⟨k, hk, u, hrun, -, -, hends⟩ := exists_endsAfter hp
      obtain ⟨t, ht, hnone⟩ := hends.step
      exact ⟨k + 1, t, by omega, run_succ_of_run hrun ht, hnone⟩

end Sys2Proof.Machine

/-! PROOFS of the family 'other', 40_gf_arith.md and 41_sbox.md: the laws of the field product (R64, R65), its
constant multiples, lane-parallel doubling (R62), and the S-boxes against their tables (R67, R68). -/

namespace Sys2Proof.Machine

/-! ## The loop of R64 -/

/-- The product is linear in its left factor: the loop adds multiples of it. -/
theorem gmulLoop_xor_left (b : Byte) (n i : Nat) (t u r q : Byte) :
    gmulLoop b n i (t ^^^ u) (r ^^^ q) = gmulLoop b n i t r ^^^ gmulLoop b n i u q := by
  induction n generalizing i t u r q with
  | zero => rfl
  | succ n ih =>
    simp only [gmulLoop, xtime_xor]
    split
    · rw [← ih]
      congr 1
      ac_rfl
    · exact ih ..

/-- The product is linear in its right factor: each bit adds its multiple or not. -/
theorem gmulLoop_xor_right (b c : Byte) (n i : Nat) (t r q : Byte) :
    gmulLoop (b ^^^ c) n i t (r ^^^ q) = gmulLoop b n i t r ^^^ gmulLoop c n i t q := by
  induction n generalizing i t r q with
  | zero => rfl
  | succ n ih =>
    have hbit (p q' : Bool) : (if p ^^ q' then r ^^^ q ^^^ t else r ^^^ q) =
        (if p then r ^^^ t else r) ^^^ (if q' then q ^^^ t else q) := by
      have hswap : r ^^^ q ^^^ t = r ^^^ t ^^^ q := by ac_rfl
      have hcancel : r ^^^ t ^^^ (q ^^^ t) = r ^^^ q ^^^ (t ^^^ t) := by ac_rfl
      cases p <;> cases q'
      · rfl
      · exact BitVec.xor_assoc r q t
      · exact hswap
      · exact (hcancel.trans (by rw [BitVec.xor_self]; exact BitVec.xor_zero)).symm
    simp only [gmulLoop, BitVec.getLsbD_xor, hbit]
    exact ih ..

/-- The loop commutes with doubling. -/
theorem gmulLoop_xtime (b : Byte) (n i : Nat) (t r : Byte) :
    gmulLoop b n i (xtime t) (xtime r) = xtime (gmulLoop b n i t r) := by
  induction n generalizing i t r with
  | zero => rfl
  | succ n ih =>
    have hbit : (if b.getLsbD i then xtime r ^^^ xtime t else xtime r) =
        xtime (if b.getLsbD i then r ^^^ t else r) := by
      split
      · exact (xtime_xor r t).symm
      · rfl
    simp only [gmulLoop, hbit]
    exact ih ..

theorem gmul_xor_left (a b c : Byte) : gmul (a ^^^ b) c = gmul a c ^^^ gmul b c :=
  gmulLoop_xor_left c 8 0 a b 0 0

theorem gmul_xor_right (a b c : Byte) : gmul a (b ^^^ c) = gmul a b ^^^ gmul a c :=
  gmulLoop_xor_right b c 8 0 a 0 0

theorem gmul_xtime_left (a b : Byte) : gmul (xtime a) b = xtime (gmul a b) := gmulLoop_xtime b 8 0 a 0

theorem gmul_zero_left (a : Byte) : gmul 0 a = 0 := by
  have h := gmul_xor_left 0 0 a
  rwa [BitVec.xor_self, BitVec.xor_self] at h

theorem gmul_one_left : ∀ a : Byte, gmul 1 a = a := by decide

/-! ## The laws of R65 -/

/-- The value of the listed bits of `a`, the last listed being the highest, by doubling and adding 1
(Horner). -/
def valueOfBits (a : Byte) (l : List Nat) : Byte :=
  l.foldr (fun i x => if a.getLsbD i then xtime x ^^^ 1 else xtime x) 0

theorem valueOfBits_range : ∀ a : Byte, valueOfBits a (List.range 8) = a := by decide

/-- Every byte comes from 0 by doubling and adding 1. -/
theorem byte_induction {P : Byte → Prop} (zero : P 0) (double : ∀ a, P a → P (xtime a))
    (addOne : ∀ a, P a → P (a ^^^ 1)) (a : Byte) : P a := by
  have hbits : ∀ l, P (valueOfBits a l) := fun l => by
    induction l with
    | nil => exact zero
    | cons i l ih =>
      rw [valueOfBits, List.foldr_cons]
      split
      · exact addOne _ (double _ ih)
      · exact double _ ih
  rw [← valueOfBits_range a]
  exact hbits _

theorem gmul_zero_right (a : Byte) : gmul a 0 = 0 := by
  have h := gmul_xor_right a 0 0
  rwa [BitVec.xor_self, BitVec.xor_self] at h

theorem gmul_one_right : ∀ a : Byte, gmul a 1 = a := by decide

theorem gmul_xtime_right (a b : Byte) : gmul a (xtime b) = xtime (gmul a b) := by
  induction a using byte_induction with
  | zero => simp only [gmul_zero_left]; rfl
  | double a ih => rw [gmul_xtime_left, ih, gmul_xtime_left]
  | addOne a ih => rw [gmul_xor_left, gmul_xor_left, gmul_one_left, gmul_one_left, ih, xtime_xor]

theorem gmul_comm (a b : Byte) : gmul a b = gmul b a := by
  induction a using byte_induction with
  | zero => rw [gmul_zero_left, gmul_zero_right]
  | double a ih => rw [gmul_xtime_left, gmul_xtime_right, ih]
  | addOne a ih => rw [gmul_xor_left, gmul_xor_right, gmul_one_left, gmul_one_right, ih]

theorem gmul_assoc (a b c : Byte) : gmul (gmul a b) c = gmul a (gmul b c) := by
  induction a using byte_induction with
  | zero => simp only [gmul_zero_left]
  | double a ih => simp only [gmul_xtime_left, ih]
  | addOne a ih => simp only [gmul_xor_left, gmul_one_left, ih]

/-- `ginv` is the field inverse, read off the table it agrees with (R65, R67). -/
theorem gmul_ginv {a : Byte} (h : a ≠ 0) : gmul a (ginv a) = 1 := by
  have htable : ∀ a : Byte, a ≠ 0 → gmul a (ginvOfTable a) = 1 := by decide +kernel
  rw [ginv_eq_ginvOfTable]
  exact htable a h

theorem eq_of_gmul_eq_one {a b c : Byte} (hb : gmul a b = 1) (hc : gmul a c = 1) : b = c := by
  calc
    b = gmul (gmul a c) b := by rw [hc, gmul_one_left]
    _ = gmul (gmul a b) c := by rw [gmul_assoc, gmul_comm c b, gmul_assoc]
    _ = c := by rw [hb, gmul_one_left]

/-- Settles O43: the loop is linear in both factors and commutes with doubling, and doubling and adding 1
give every byte. -/
theorem fieldProductLaws : Obligations.FieldProductLaws :=
  ⟨gmul_comm, gmul_assoc, gmul_xor_right, fun a => ⟨gmul_zero_right a, gmul_one_right a⟩,
    fun a h => ⟨ginv a, gmul_ginv h, fun _ hb => eq_of_gmul_eq_one hb (gmul_ginv h)⟩⟩

/-! ## Constant multiples -/

section

variable (a : Byte)

theorem gmul_02 : gmul 0x02 a = mul02 a := by
  rw [show (0x02 : Byte) = xtime 1 by decide, gmul_xtime_left, gmul_one_left, mul02]

theorem gmul_03 : gmul 0x03 a = mul03 a := by
  rw [show (0x03 : Byte) = 0x02 ^^^ 1 by decide, gmul_xor_left, gmul_02, gmul_one_left, mul02, mul03]

theorem gmul_08 : gmul 0x08 a = xtime (xtime (xtime a)) := by
  rw [show (0x08 : Byte) = xtime (xtime 0x02) by decide, gmul_xtime_left, gmul_xtime_left, gmul_02, mul02]

theorem gmul_0C : gmul 0x0C a = xtime (xtime (xtime a)) ^^^ xtime (xtime a) := by
  rw [show (0x0C : Byte) = 0x08 ^^^ xtime 0x02 by decide, gmul_xor_left, gmul_08, gmul_xtime_left,
    gmul_02, mul02]

theorem gmul_09 : gmul 0x09 a = mul09 a := by
  rw [show (0x09 : Byte) = 0x08 ^^^ 1 by decide, gmul_xor_left, gmul_08, gmul_one_left, mul09]

theorem gmul_0B : gmul 0x0B a = mul0B a := by
  rw [show (0x0B : Byte) = 0x08 ^^^ 0x02 ^^^ 1 by decide, gmul_xor_left, gmul_xor_left, gmul_08, gmul_02,
    gmul_one_left, mul02, mul0B]

theorem gmul_0D : gmul 0x0D a = mul0D a := by
  rw [show (0x0D : Byte) = 0x0C ^^^ 1 by decide, gmul_xor_left, gmul_0C, gmul_one_left, mul0D]

theorem gmul_0E : gmul 0x0E a = mul0E a := by
  rw [show (0x0E : Byte) = 0x0C ^^^ 0x02 by decide, gmul_xor_left, gmul_0C, gmul_02, mul02, mul0E]

end

/-- Settles O42: each constant is made from 1 by doubling and adding. -/
theorem constantMultiplesAreFieldProducts : Obligations.ConstantMultiplesAreFieldProducts := fun a =>
  ⟨gmul_one_left a, gmul_02 a, gmul_03 a, gmul_09 a, gmul_0B a, gmul_0D a, gmul_0E a⟩

/-! ## Lane-parallel doubling -/

/-- Lane-parallel doubling doubles each of the four bytes (R62). -/
theorem wordByte_xtime4 (x : Word) {k : Nat} (hk : k < 4) : wordByte (xtime4 x) k = xtime (wordByte x k) := by
  have htop : ∀ i, i < 32 → (0x80808080 : Word).getLsbD i = decide (i % 8 = 7) := by decide
  have hred : (0x1B1B1B1B : Word).extractLsb' (8 * k) 8 = 0x1B := by
    revert k
    decide
  exact byte_maskedDoubling htop x (by omega) hred

/-- The byte that doubles to `a`: the reduction undone if it took place, which bit 0 tells. -/
def halve (a : Byte) : Byte := if a.getLsbD 0 then (a ^^^ 0x1B) >>> 1 ^^^ 0x80 else a >>> 1

theorem xtime_injective : Function.Injective xtime := by
  have hhalve : Function.LeftInverse halve xtime := by
    unfold Function.LeftInverse
    decide
  exact hhalve.injective

/-- Settles O41: the masking sequence doubles each byte, so words with equal doubles have equal bytes, and an
injective function of a finite type to itself is bijective. -/
theorem laneDoublingIsBytewise : Obligations.LaneDoublingIsBytewise := by
  refine ⟨fun x k => wordByte_xtime4 x, fun x k => laneByte_xtime8 x,
    Finite.injective_iff_bijective.1 fun x y h => ?word, Finite.injective_iff_bijective.1 fun x y h => ?lane⟩
  case word =>
    refine word_eq_of_bytes fun k hk => xtime_injective ?_
    rw [← wordByte_xtime4 x hk, ← wordByte_xtime4 y hk, h]
  case lane =>
    refine lane_eq_of_bytes fun k hk => xtime_injective ?_
    rw [← laneByte_xtime8 x hk, ← laneByte_xtime8 y hk, h]

/-! ## The S-boxes -/

/-- The two linear maps of R67 and R68 undo each other in this order as well. -/
theorem affine_invAffine : ∀ y : Byte, affine (invAffine y ^^^ 0x05) ^^^ 0x63 = y := by decide

/-- The forward S-box undoes the inverse one. -/
theorem sbox_invSbox (y : Byte) : sbox (invSbox y) = y := by
  rw [sbox, invSbox, ginv_ginv, affine_invAffine]

/-- The inverse S-box is the table of R68: the table undoes that of R67. -/
theorem invSboxTable_getElem? (y : Byte) : invSboxTable[y.toNat]? = some (invSbox y) := by
  have htable : ∀ x : Byte, invSboxTable[(sboxTable.getD x.toNat 0).toNat]? = some x := by
    decide +kernel
  have h := htable (invSbox y)
  rwa [List.getD_eq_getElem?_getD, sboxTable_getElem?, Option.getD_some, sbox_invSbox] at h

/-- Settles O44: the inverse S-box is the table that undoes the forward table. -/
theorem sboxesAreTheTablesAndInverse : Obligations.SboxesAreTheTablesAndInverse := by
  refine ⟨fun x => gmul_ginv, ?_, sboxTable_getElem?, invSboxTable_getElem?,
    fun x => ⟨invSbox_sbox x, sbox_invSbox x⟩⟩
  decide

end Sys2Proof.Machine

/-! PROOFS of the family 'other', 42_geometry.md and 45_driver.md: the row rotations (R73, R74), the column
mixers in matrix and lane form (R75, R76), their laws (R77), and the round trip (R100). -/

namespace Sys2Proof.Machine

/-! ## A left inverse on blocks is a right inverse -/

theorem finite_block : Finite Block :=
  Finite.of_injective (fun b : Block => (b.l0, b.l1)) fun a b h => by
    obtain ⟨h0, h1⟩ := Prod.mk.inj h
    cases a
    cases b
    cases h0
    cases h1
    rfl

/-- There are finitely many blocks, so an injective function on them is onto. -/
theorem rightInverse_of_leftInverse {f g : Block → Block} (h : Function.LeftInverse g f) :
    Function.RightInverse g f := by
  have := finite_block
  exact h.rightInverse_of_surjective (Finite.injective_iff_surjective.1 h.injective)

theorem subBytes_invSubBytes : ∀ b : Block, subBytes (invSubBytes b) = b :=
  rightInverse_of_leftInverse invSubBytes_subBytes

theorem shiftRows_invShiftRows : ∀ b : Block, shiftRows (invShiftRows b) = b :=
  rightInverse_of_leftInverse invShiftRows_shiftRows

theorem mixColumns_invMixColumns : ∀ b : Block, mixColumns (invMixColumns b) = b :=
  rightInverse_of_leftInverse invMixColumns_mixColumns

/-- Settles O46: on blocks, undoing in one order is undoing in both (`rightInverse_of_leftInverse`). -/
theorem inverseTransformsUndoTheirTransforms : Obligations.InverseTransformsUndoTheirTransforms := fun b =>
  ⟨invSubBytes_subBytes b, subBytes_invSubBytes b, invShiftRows_shiftRows b, shiftRows_invShiftRows b,
    invMixColumns_mixColumns b, mixColumns_invMixColumns b⟩

/-- Settles O40: each inverse round undoes its round, whatever the round keys (`invCipher_cipher`). -/
theorem decryptionInvertsEncryption : Obligations.DecryptionInvertsEncryption := invCipher_cipher

/-! ## Row rotations -/

section

variable (b : Block) {r c : Nat}

theorem cell_shiftRows (hr : r < 4) (hc : c < 4) : cell (shiftRows b) r c = cell b r ((c + r) % 4) :=
  cell_ofCells _ hr hc

theorem cell_invShiftRows (hr : r < 4) (hc : c < 4) :
    cell (invShiftRows b) r c = cell b r ((c + 4 - r) % 4) := cell_ofCells _ hr hc

theorem cell_mixColumns (hr : r < 4) (hc : c < 4) :
    cell (mixColumns b) r c = mixRow r (cell b 0 c) (cell b 1 c) (cell b 2 c) (cell b 3 c) :=
  cell_ofCells _ hr hc

theorem cell_invMixColumns (hr : r < 4) (hc : c < 4) :
    cell (invMixColumns b) r c = invMixRow r (cell b 0 c) (cell b 1 c) (cell b 2 c) (cell b 3 c) :=
  cell_ofCells _ hr hc

theorem cell_subBytes (hr : r < 4) (hc : c < 4) : cell (subBytes b) r c = sbox (cell b r c) :=
  blockByte_subBytes b (by omega)

theorem cell_invSubBytes (hr : r < 4) (hc : c < 4) : cell (invSubBytes b) r c = invSbox (cell b r c) :=
  blockByte_invSubBytes b (by omega)

end

/-- SHIFTROWS has no check that can fail (R78). -/
theorem exec_shiftrows (s : State) : exec .shiftrows s = .next (s.setSReg (shiftRows s.sReg)) :=
  (exec_eq .shiftrows s).trans (runChecked_of_none rfl _)

/-- INVSHIFTROWS has no check that can fail (R79). -/
theorem exec_invshiftrows (s : State) : exec .invshiftrows s = .next (s.setSReg (invShiftRows s.sReg)) :=
  (exec_eq .invshiftrows s).trans (runChecked_of_none rfl _)

/-- MIXCOLUMNS has no check that can fail (R80). -/
theorem exec_mixcolumns (s : State) : exec .mixcolumns s = .next (s.setSReg (mixColumns s.sReg)) :=
  (exec_eq .mixcolumns s).trans (runChecked_of_none rfl _)

/-- INVMIXCOLUMNS has no check that can fail (R81). -/
theorem exec_invmixcolumns (s : State) : exec .invmixcolumns s = .next (s.setSReg (invMixColumns s.sReg)) :=
  (exec_eq .invmixcolumns s).trans (runChecked_of_none rfl _)

/-- Settles O32: the formulas of R73 and R74 at row `k % 4` and column `k / 4` are the permutation lists. -/
theorem shiftRowsRotatesTheRows : Obligations.ShiftRowsRotatesTheRows := by
  refine ⟨by decide, by decide, fun s => ⟨shiftRows s.sReg, invShiftRows s.sReg, exec_shiftrows s,
    exec_invshiftrows s, fun r c hr hc => ⟨cell_shiftRows _ hr hc, ?back⟩, fun k hk => ?lists, ?inv, ?fwd⟩⟩
  case back =>
    have hcol : ((c + r) % 4 + 4 - r) % 4 = c := by omega
    refine (cell_invShiftRows s.sReg hr (Nat.mod_lt _ (by decide))).trans ?_
    rw [hcol, cell]
  case lists =>
    have hlists : ∀ k < 16,
        [0, 5, 10, 15, 4, 9, 14, 3, 8, 13, 2, 7, 12, 1, 6, 11].getD k 0 = k % 4 + 4 * ((k / 4 + k % 4) % 4) ∧
        [0, 13, 10, 7, 4, 1, 14, 11, 8, 5, 2, 15, 12, 9, 6, 3].getD k 0 =
          k % 4 + 4 * ((k / 4 + 4 - k % 4) % 4) := by decide
    rw [(hlists k hk).1, (hlists k hk).2]
    exact ⟨blockByte_packBlock _ hk, blockByte_packBlock _ hk⟩
  case inv =>
    refine (exec_invshiftrows (s.setSReg (shiftRows s.sReg))).trans ?_
    rw [State.setSReg_sReg, invShiftRows_shiftRows]
    rfl
  case fwd =>
    refine (exec_shiftrows (s.setSReg (invShiftRows s.sReg))).trans ?_
    rw [State.setSReg_sReg, shiftRows_invShiftRows]
    rfl

/-! ## Column mixers -/

/-- Settles O33: the rows of R75 with the constant multiples as field products. -/
theorem mixcolumnsMultipliesTheColumns : Obligations.MixcolumnsMultipliesTheColumns := by
  refine ⟨by decide, fun s => ⟨mixColumns s.sReg, exec_mixcolumns s, fun c hc => ?_⟩⟩
  have hrow := fun r (hr : r < 4) => cell_mixColumns s.sReg hr hc
  simp only [gmul_02, gmul_03]
  exact ⟨hrow 0 (by decide), hrow 1 (by decide), hrow 2 (by decide), hrow 3 (by decide)⟩

/-- Settles O34: the rows of R76 with the constant multiples as field products. -/
theorem invmixcolumnsMultipliesTheColumns : Obligations.InvmixcolumnsMultipliesTheColumns := by
  refine ⟨by decide, fun s => ⟨invMixColumns s.sReg, exec_invmixcolumns s, fun c hc => ?columns⟩,
    fun s => ⟨_, exec_mixcolumns s, ?restores⟩⟩
  case columns =>
    have hrow := fun r (hr : r < 4) => cell_invMixColumns s.sReg hr hc
    simp only [gmul_09, gmul_0B, gmul_0D, gmul_0E]
    exact ⟨hrow 0 (by decide), hrow 1 (by decide), hrow 2 (by decide), hrow 3 (by decide)⟩
  case restores =>
    rw [exec_invmixcolumns, State.setSReg_sReg, invMixColumns_mixColumns]
    rfl

/-! ## Laws -/

theorem mul02_xor (a b : Byte) : mul02 (a ^^^ b) = mul02 a ^^^ mul02 b := xtime_xor a b

theorem mul03_xor (a b : Byte) : mul03 (a ^^^ b) = mul03 a ^^^ mul03 b := by
  simp only [mul03, xtime_xor]
  ac_rfl

section

variable {r : Nat} (hr : r < 4)
include hr

theorem mixRow_xor (a0 a1 a2 a3 b0 b1 b2 b3 : Byte) :
    mixRow r (a0 ^^^ b0) (a1 ^^^ b1) (a2 ^^^ b2) (a3 ^^^ b3) =
      mixRow r a0 a1 a2 a3 ^^^ mixRow r b0 b1 b2 b3 := by
  interval_cases r <;> simp only [mixRow, mul02_xor, mul03_xor] <;> ac_rfl

theorem invMixRow_xor (a0 a1 a2 a3 b0 b1 b2 b3 : Byte) :
    invMixRow r (a0 ^^^ b0) (a1 ^^^ b1) (a2 ^^^ b2) (a3 ^^^ b3) =
      invMixRow r a0 a1 a2 a3 ^^^ invMixRow r b0 b1 b2 b3 := by
  interval_cases r <;> simp only [invMixRow, mul09_xor, mul0B_xor, mul0D_xor, mul0E_xor] <;> ac_rfl

/-- The coefficients of row 0 of R75 add up to 1, and every row has the same ones. -/
theorem mixRow_same (x : Byte) : mixRow r x x x x = x := by
  induction r with
  | zero =>
    revert x
    decide
  | succ r ih =>
    rw [← Nat.mod_eq_of_lt hr, mixRow_succ (by omega)]
    exact ih (by omega)

/-- As `mixRow_same`, for R76. -/
theorem invMixRow_same (x : Byte) : invMixRow r x x x x = x := by
  induction r with
  | zero =>
    revert x
    decide
  | succ r ih =>
    rw [← Nat.mod_eq_of_lt hr, invMixRow_succ (by omega)]
    exact ih (by omega)

end

/-- Settles O47: each law cell by cell, where it is one of the S-boxes or of the matrix rows. -/
theorem roundTransformLaws : Obligations.RoundTransformLaws := by
  refine ⟨fun b => ⟨block_eq_of_cells fun r c hr hc => ?sub, block_eq_of_cells fun r c hr hc => ?invSub⟩,
    fun a b => ⟨block_eq_of_cells fun r c hr hc => ?mix, block_eq_of_cells fun r c hr hc => ?invMix⟩,
    fun b c x hc hx r hr =>
      ⟨(cell_mixColumns b hr hc).trans ?same, (cell_invMixColumns b hr hc).trans ?invSame⟩⟩
  case sub =>
    rw [cell_shiftRows _ hr hc, cell_subBytes _ hr (Nat.mod_lt _ (by decide)), cell_subBytes _ hr hc,
      cell_shiftRows _ hr hc]
  case invSub =>
    rw [cell_invShiftRows _ hr hc, cell_invSubBytes _ hr (Nat.mod_lt _ (by decide)),
      cell_invSubBytes _ hr hc, cell_invShiftRows _ hr hc]
  case mix =>
    simp only [cell_xor, cell_mixColumns _ hr hc, mixRow_xor hr]
  case invMix =>
    simp only [cell_xor, cell_invMixColumns _ hr hc, invMixRow_xor hr]
  case same =>
    simp only [cell, hx, Nat.reduceLT, mixRow_same hr]
  case invSame =>
    simp only [cell, hx, Nat.reduceLT, invMixRow_same hr]

/-! ## Lane forms -/

/-- A rotation of a word by `k` bytes moves byte `m + k` to byte `m` (R75). -/
theorem wordByte_rotateRight (w : Word) {k m : Nat} (hk : k < 4) (hm : m < 4) :
    wordByte (w.rotateRight (8 * k)) m = wordByte w ((m + k) % 4) := by
  apply BitVec.eq_of_getLsbD_eq
  intro i hi
  have hrot : 8 * k % 32 = 8 * k := Nat.mod_eq_of_lt (by omega)
  simp only [wordByte, BitVec.getLsbD_extractLsb', BitVec.getLsbD_rotateRight, hrot, hi, decide_true,
    Bool.true_and]
  by_cases hlow : 8 * m + i < 32 - 8 * k
  · have hsource : 8 * k + (8 * m + i) = 8 * ((m + k) % 4) + i := by omega
    simp only [hlow, decide_true, cond_true, hsource]
  · have hsource : 8 * m + i - (32 - 8 * k) = 8 * ((m + k) % 4) + i := by omega
    have hin : 8 * m + i < 32 := by omega
    simp only [hlow, hin, decide_true, decide_false, cond_false, Bool.true_and, hsource]

/-- Byte `m` of column `h` of a lane is row `m`; the column rotation brings row `m + k` to it (R75). -/
theorem laneByte_rotColumns (x : Lane) {k h m : Nat} (hk : k < 4) (hh : h < 2) (hm : m < 4) :
    laneByte (rotColumns k x) (4 * h + m) = laneByte x (4 * h + (m + k) % 4) := by
  have hm' : (m + k) % 4 < 4 := Nat.mod_lt _ (by decide)
  have hcolumn : (rotColumns k x).extractLsb' (32 * h) 32 =
      (x.extractLsb' (32 * h) 32).rotateRight (8 * k) := by
    interval_cases h
    · exact BitVec.extractLsb'_append_eq_right
    · exact BitVec.extractLsb'_append_eq_left
  rw [← wordByte_extractLsb' _ h hm, ← wordByte_extractLsb' _ h hm', hcolumn, wordByte_rotateRight _ hk hm]

/-- One column of the lane form of MixColumns is the column's product with the matrix of R75. -/
theorem laneByte_mixLane (x : Lane) {h r : Nat} (hh : h < 2) (hr : r < 4) :
    laneByte (mixLane x) (4 * h + r) = mixRow r (laneByte x (4 * h + 0)) (laneByte x (4 * h + 1))
      (laneByte x (4 * h + 2)) (laneByte x (4 * h + 3)) := by
  have hk : 4 * h + r < 8 := by omega
  simp only [mixLane, laneByte_xor, laneByte_xtime8 _ hk, laneByte_rotColumns x (by decide : 1 < 4) hh hr,
    laneByte_rotColumns x (by decide : 2 < 4) hh hr, laneByte_rotColumns x (by decide : 3 < 4) hh hr]
  interval_cases r <;> simp only [Nat.reduceAdd, Nat.reduceMod, mixRow, mul02, mul03, xtime_xor] <;> ac_rfl

theorem byte_xor_xor_cancel_left (x y : Byte) : x ^^^ (x ^^^ y) = y := by
  rw [← BitVec.xor_assoc, BitVec.xor_self, BitVec.zero_xor]

theorem byte_xor_left_comm (x y z : Byte) : x ^^^ (y ^^^ z) = y ^^^ (x ^^^ z) := by ac_rfl

/-- The matrix of R76 is that of R75 after four times the sum of each byte and the one opposite is added to
it. In row 0, written out in doublings, the terms that are left over occur twice; row `r + 1` is row `r` on the
turned column. -/
theorem mixRow_add_opposite {r : Nat} (hr : r < 4) (a0 a1 a2 a3 : Byte) :
    mixRow r (a0 ^^^ xtime (xtime (a0 ^^^ a2))) (a1 ^^^ xtime (xtime (a1 ^^^ a3)))
      (a2 ^^^ xtime (xtime (a2 ^^^ a0))) (a3 ^^^ xtime (xtime (a3 ^^^ a1))) = invMixRow r a0 a1 a2 a3 := by
  induction r generalizing a0 a1 a2 a3 with
  | zero =>
    simp only [mixRow, invMixRow, mul02, mul03, mul09, mul0B, mul0D, mul0E, xtime_xor, BitVec.xor_assoc,
      BitVec.xor_comm, byte_xor_left_comm, byte_xor_xor_cancel_left]
  | succ r ih =>
    rw [← Nat.mod_eq_of_lt hr, mixRow_succ (by omega), invMixRow_succ (by omega)]
    exact ih (by omega) a1 a2 a3 a0

/-- As `laneByte_mixLane`, for the matrix of R76. -/
theorem laneByte_invMixLane (x : Lane) {h r : Nat} (hh : h < 2) (hr : r < 4) :
    laneByte (invMixLane x) (4 * h + r) = invMixRow r (laneByte x (4 * h + 0)) (laneByte x (4 * h + 1))
      (laneByte x (4 * h + 2)) (laneByte x (4 * h + 3)) := by
  have hprep : ∀ m < 4, laneByte (x ^^^ xtime8 (xtime8 (x ^^^ rotColumns 2 x))) (4 * h + m) =
      laneByte x (4 * h + m) ^^^
        xtime (xtime (laneByte x (4 * h + m) ^^^ laneByte x (4 * h + (m + 2) % 4))) := fun m hm => by
    have hk : 4 * h + m < 8 := by omega
    simp only [laneByte_xor, laneByte_xtime8 _ hk, laneByte_rotColumns x (by decide : 2 < 4) hh hm]
  rw [invMixLane, laneByte_mixLane _ hh hr, hprep 0 (by decide), hprep 1 (by decide), hprep 2 (by decide),
    hprep 3 (by decide)]
  exact mixRow_add_opposite hr _ _ _ _

/-- Columns 0 and 1 are the columns of lane 0, and 2 and 3 those of lane 1 (R12, R17). -/
theorem cell_eq_laneByte (b : Block) {r c : Nat} (hr : r < 4) (hc : c < 4) :
    cell b r c = laneByte (if c < 2 then b.l0 else b.l1) (4 * (c % 2) + r) := by
  interval_cases c <;> interval_cases r <;> rfl

/-- A function of lanes that mixes each column of a lane by `row`, on both lanes of a block. -/
theorem cell_mapLanes {f : Lane → Lane} {row : Nat → Byte → Byte → Byte → Byte → Byte}
    (hf : ∀ (x : Lane) {h r : Nat}, h < 2 → r < 4 → laneByte (f x) (4 * h + r) =
      row r (laneByte x (4 * h + 0)) (laneByte x (4 * h + 1)) (laneByte x (4 * h + 2)) (laneByte x (4 * h + 3)))
    (b : Block) {r c : Nat} (hr : r < 4) (hc : c < 4) :
    cell ⟨f b.l0, f b.l1⟩ r c = row r (cell b 0 c) (cell b 1 c) (cell b 2 c) (cell b 3 c) := by
  have hrow := fun m (hm : m < 4) => cell_eq_laneByte b hm hc
  rw [cell_eq_laneByte _ hr hc, hrow 0 (by decide), hrow 1 (by decide), hrow 2 (by decide),
    hrow 3 (by decide), ← apply_ite f, hf _ (Nat.mod_lt c (by decide)) hr]

/-- Settles O45: cell by cell, both are the product of the cell's row and column. -/
theorem laneFormsComputeTheColumnProducts : Obligations.LaneFormsComputeTheColumnProducts := fun b =>
  ⟨block_eq_of_cells fun _ _ hr hc =>
      (cell_mixColumns b hr hc).trans (cell_mapLanes laneByte_mixLane b hr hc).symm,
    block_eq_of_cells fun _ _ hr hc =>
      (cell_invMixColumns b hr hc).trans (cell_mapLanes laneByte_invMixLane b hr hc).symm⟩

end Sys2Proof.Machine

/-! PROOFS of the family 'other', 44_key_schedule.md: KEYSETUP expands the key by the recurrence of R92, from the
key words alone (R94, R95), and the round constants are the powers of two (R91). -/

namespace Sys2Proof.Machine

/-- The three recognized key lengths as the statements list them (R87). -/
theorem keyParams_of_mem {klen nk nr : Nat} (h : (klen, nk, nr) ∈ [(0, 4, 10), (1, 6, 12), (2, 8, 14)]) :
    keyParams klen = some (nk, nr) := by
  simp only [List.mem_cons, Prod.mk.injEq, List.not_mem_nil, or_false] at h
  obtain ⟨rfl, rfl, rfl⟩ | ⟨rfl, rfl, rfl⟩ | ⟨rfl, rfl, rfl⟩ := h <;> rfl

/-- Every key length has a word, its words fit the key registers, and they are the first of the expansion. -/
theorem keyParams_bounds {klen nk nr : Nat} (h : keyParams klen = some (nk, nr)) :
    0 < nk ∧ nk ≤ 8 ∧ nk ≤ 4 * (nr + 1) := by
  match klen with
  | 0 | 1 | 2 => cases h; decide

/-- A KEYSETUP of a recognized key length installs the schedule (R94). -/
theorem exec_keysetup {klen nk nr : Nat} (h : keyParams klen = some (nk, nr)) (s : State) :
    exec (.keysetup klen) s = .next (installSchedule nk nr s) := by
  have hcheck : precheck (.keysetup klen) s = none := by simp [precheck, h]
  rw [exec_of_passed hcheck, commandEffect, keysetupEffect, h]

/-- Key word `j` is `KEYj` (R88). -/
theorem wordAt_keyWords (s : State) {nk j : Nat} (hj : j < 8) (hnk : j < nk) :
    wordAt (keyWords s nk) j = s.key[j] := by
  simp [wordAt, keyWords, hj, hnk]

/-- States with the same first `nk` key registers have the same key words (R95). -/
theorem keyWords_congr {s t : State} {nk : Nat} (h : ∀ (j : Nat) (_ : j < 8), j < nk → s.key[j] = t.key[j]) :
    keyWords s nk = keyWords t nk := by
  apply List.ext_getElem
  · simp [keyWords]
  · intro j hs _
    have hj : j < nk ∧ j < 8 := by simpa [keyWords] using hs
    simpa [keyWords] using h j hj.2 hj.1

section

variable {nk i : Nat} {t rc : Word}

theorem nextRc_of_mod_eq (h : i % nk = 0) : nextRc nk i rc = xtime4 rc := if_pos h

theorem nextRc_of_mod_ne (h : i % nk ≠ 0) : nextRc nk i rc = rc := if_neg h

theorem scheduleTerm_of_mod_eq (h : i % nk = 0) :
    scheduleTerm nk i t rc = sub4 (t.rotateRight 8) ^^^ rc := if_pos h

theorem scheduleTerm_of_middle (h : i % nk ≠ 0) (hm : nk = 8 ∧ i % nk = 4) :
    scheduleTerm nk i t rc = sub4 t := (if_neg h).trans (if_pos hm)

theorem scheduleTerm_of_plain (h : i % nk ≠ 0) (hm : ¬ (nk = 8 ∧ i % nk = 4)) :
    scheduleTerm nk i t rc = t := (if_neg h).trans (if_neg hm)

end

/-- Settles O36: the words and round constants are those of `expandLoop_spec`, each clause being a branch of
the recurrence. -/
theorem keysetupExpandsTheKey : Obligations.KeysetupExpandsTheKey := by
  refine ⟨by decide, by decide, by decide, by decide, fun s => ?badKeylen, fun s klen nk nr hmem => ?expands⟩
  case badKeylen =>
    rw [exec_eq, runChecked_of_some (e := .badKeylen) rfl, raiseErr_eq_recorded, errorNumber]
  case expands =>
    have hparams := keyParams_of_mem hmem
    obtain ⟨hpos, h8, hle⟩ := keyParams_bounds hparams
    have hlen : (keyWords s nk).length = nk := length_keyWords hparams s
    obtain ⟨rc, hrc, -, hstart, hrec⟩ :=
      expandLoop_spec nk hpos (4 * (nr + 1) - nk) (keyWords s nk) 0x00000001 hlen.ge
    rw [hlen] at hrc hstart hrec
    rw [Nat.add_sub_cancel' hle] at hrec
    refine ⟨scheduleFile (keyWords s nk) nk nr, wordAt (keyExpansion (keyWords s nk) nk nr), rc,
      exec_keysetup hparams s, fun j hj hjk => (hstart j hjk).trans (wordAt_keyWords s hj hjk), hrc,
      fun i h1 h2 => ?recurrence, fun i hi => ?file⟩
    case recurrence =>
      obtain ⟨hconst, hword⟩ := hrec i h1 h2
      refine ⟨fun h0 => ⟨?_, ?_⟩, fun h0 => ⟨?_, fun hm => ?_, fun hm => ?_⟩⟩
      · rwa [scheduleTerm_of_mod_eq h0] at hword
      · rwa [nextRc_of_mod_eq h0] at hconst
      · rwa [nextRc_of_mod_ne h0] at hconst
      · rwa [scheduleTerm_of_middle h0 hm] at hword
      · rwa [scheduleTerm_of_plain h0 hm] at hword
    case file =>
      rw [scheduleFile_get _ _ _ hi]
      exact ⟨fun h => if_pos h, fun h => if_neg h.not_ge⟩

/-- Settles O37: the file is a function of the key words. -/
theorem scheduleDependsOnTheKeyWordsOnly : Obligations.ScheduleDependsOnTheKeyWordsOnly := by
  intro s t klen nk nr hmem hkey
  have hparams := keyParams_of_mem hmem
  have hfile : scheduleFile (keyWords s nk) nk nr = scheduleFile (keyWords t nk) nk nr := by
    rw [keyWords_congr hkey]
  exact ⟨_, _, exec_keysetup hparams s, exec_keysetup hparams t, hfile, rfl, rfl⟩

/-- Settles O48: nine doublings, of which only that of 0x80 is reduced by 0x1B. -/
theorem roundConstantsArePowersOfTwo : Obligations.RoundConstantsArePowersOfTwo := by
  unfold Obligations.RoundConstantsArePowersOfTwo
  decide

end Sys2Proof.Machine
